-- ==== Sys2Proof/Word.lean ====
section
/-! DEFINITION. The word types of the block's rules (spec R8, R9): `bit`, `u24`, `u32`, `u64` and the binary64
bit pattern `f64`, each a bit vector of its own fixed width, bit 0 least significant. -/

namespace Sys2Proof

/-- A `bit` of R9; on a pin `false` is LOW (0) and `true` is HIGH (1). -/
abbrev Bit := Bool

/-- `u24` of R9: the frame accumulator and its relatives. -/
abbrev U24 := BitVec 24

/-- `u32` of R9: command words, configuration registers and counters. -/
abbrev Word := BitVec 32

/-- `u64` of R9: the timebase, the counters that use it, and the host data bus. -/
abbrev U64 := BitVec 64

/-- `f64` of R9: an IEEE 754 binary64 bit pattern (R44). -/
abbrev F64 := BitVec 64

/-- A bit as a one-bit vector, for concatenation `{a, b}` (R8). -/
abbrev Bit.vec (b : Bit) : BitVec 1 := BitVec.ofBool b

end Sys2Proof
end

