-- ==== Sys2Proof/Config.lean ====
section
/-! DEFINITION. What one build of the block fixes (spec R6, R7 and the OPEN parameters of 92_eei_decisions.md), and
the free values: what the sensor drives on `dout` and what the platform drives on `now` when no input is given. -/

namespace Sys2Proof

/-- The build parameters of R7 with the OPEN parameters of 92_eei_decisions.md. The spec lets a model take each one
as an argument: State carries one `Build`, no step changes it, and a claim about every state is a claim about every
build (assumption 1). -/
structure Build where
  /-- CLK_HZ, OPEN: frequency of `clk`; only the default delay reset values use it. -/
  clkHz : Nat
  /-- TICK_HZ, OPEN: ticks per second of the input `now`. -/
  tickHz : Nat
  /-- SYNC_STAGES: synchroniser flip-flops on `dout`, 0 to 3. -/
  syncStages : Nat
  /-- CALC_LATENCY: cycles the PROCESS state lasts, 1 to 2^16. -/
  calcLatency : Nat
  /-- AUTO_RUN: start the acquisition loop when reset is released. -/
  autoRun : Bool
  /-- OFFSET_RST. -/
  offsetRst : Word
  /-- SCALE_RST. -/
  scaleRst : F64
  /-- SETTLE_RST, at least 1. -/
  settleRst : Word
  /-- BACKOFF_RST, at least 1. -/
  backoffRst : Word
  /-- INTERFRAME_RST. -/
  interframeRst : Word
  /-- TIMEOUT_RST. -/
  timeoutRst : Word
  /-- SETTLE_MAX, OPEN: the largest SETTLE for which the sensor keeps its state (R131). No step reads it. -/
  settleMax : Nat
  /-- T_DV, OPEN: cycles the sensor needs after SCK rises to drive the bit (R132). No step reads it. -/
  tDv : Nat
  deriving DecidableEq, Repr

/-- The default build of R7 for given rates: SYNC_STAGES 2, CALC_LATENCY 1, AUTO_RUN 0, OFFSET 8661777,
SCALE -960.33, TIMEOUT 0, and the delays ceil(CLK_HZ * 1 us), ceil(CLK_HZ * 1 ms), ceil(CLK_HZ * 200 ms). -/
def Build.ofRates (clkHz tickHz settleMax tDv : Nat) : Build where
  clkHz := clkHz
  tickHz := tickHz
  syncStages := 2
  calcLatency := 1
  autoRun := false
  offsetRst := 8661777#32
  scaleRst := 0xC08E02A3D70A3D71#64
  settleRst := BitVec.ofNat 32 ((clkHz + 999999) / 1000000)
  backoffRst := BitVec.ofNat 32 ((clkHz + 999) / 1000)
  interframeRst := BitVec.ofNat 32 ((clkHz + 4) / 5)
  timeoutRst := 0#32
  settleMax := settleMax
  tDv := tDv

/-- The identity string of the block (R3). No register holds it. -/
def Config.identity : String := "HX711-IF/pizboat-core"

/-- DATA_BITS, one of the constants no build can change (R6). -/
def Config.dataBits : Nat := 24

/-- GAIN_PULSES of R6. -/
def Config.gainPulses : Nat := 1

/-- PULSES_PER_FRAME = DATA_BITS + GAIN_PULSES (R6). -/
def Config.pulsesPerFrame : Nat := Config.dataBits + Config.gainPulses

/-- SIGN_MASK, bit 23 set (R6). -/
def Config.signMask : U24 := 0x800000#24

/-- FREE VALUE behind CLK_HZ (OPEN, assumption 2). -/
opaque Config.freeClkHz : Nat

/-- FREE VALUE behind TICK_HZ (OPEN, assumption 2). -/
opaque Config.freeTickHz : Nat

/-- FREE VALUE: SETTLE_MAX (OPEN, assumption 2). -/
opaque Config.settleMax : Nat

/-- FREE VALUE: T_DV (OPEN, assumption 2). -/
opaque Config.tDv : Nat

/-- CLK_HZ: some positive integer for which the three default delays lie in their legal ranges of R7. -/
def Config.clkHz : Nat := Config.freeClkHz % 21474836475 + 1

/-- TICK_HZ: some integer from 1 to 2^32 - 1 (R7). -/
def Config.tickHz : Nat := Config.freeTickHz % 4294967295 + 1

/-- The default build, its OPEN parameters left free. -/
def Config.build : Build := Build.ofRates Config.clkHz Config.tickHz Config.settleMax Config.tDv

/-- FREE VALUE: the level on `dout` in the cycle that ends at clock edge n, when no input is given for that cycle
(R56, 93 U13, assumption 4). -/
opaque Config.freeDout : Nat → Bit

/-- FREE VALUE: the timebase `now` at clock edge n, when no input is given for that cycle (93 U14, assumption 4). -/
opaque Config.freeNow : Nat → U64

end Sys2Proof
end

