-- ==== Sys2Proof/Syntax.lean ====
section
/-! DEFINITION. The commands of the block (spec R2, R68), one constructor per row of spec/opcode_table.json. No
command has an immediate, a register field or an operand mode (R67), so no constructor has an argument. -/

namespace Sys2Proof

/-- The eight commands a host can write to CMD (R68). -/
inductive Instr where
  /-- NOP, OPC 0x0 (R101). -/
  | nop
  /-- PULSE, OPC 0x1 (R78). -/
  | pulse
  /-- READ_FRAME, OPC 0x2 (R88). -/
  | readFrame
  /-- DECODE, OPC 0x3 (R89). -/
  | decode
  /-- CALIBRATE, OPC 0x4 (R97). -/
  | calibrate
  /-- RECORD_RATE, OPC 0x5 (R98). -/
  | recordRate
  /-- ACQUIRE, OPC 0x6 (R102). -/
  | acquire
  /-- RUN, OPC 0x7 (R103). -/
  | run
  deriving DecidableEq, Repr

end Sys2Proof
end

