-- ==== Sys2Proof/Machine/Registers.lean ====
section
/-! DEFINITION. The host register map (spec R16): the sixteen registers, their indices, widths and access. -/

namespace Sys2Proof.Machine

/-- The sixteen registers of the host register space; every index is assigned (R16, R58). -/
inductive Reg where
  | cmd | status | ctrl | offset | scale | settle | backoff | interframe
  | timeout | arg | acc | raw | value | rate | frameCount | startTime
  deriving DecidableEq, Repr

/-- The access column of R16. -/
inductive Access where
  /-- WO: CMD. -/
  | writeOnly
  /-- RO with W1C bits: STATUS. -/
  | statusBits
  /-- RW at any time: CTRL. -/
  | always
  /-- RW, locked while busy: the configuration registers of R50. -/
  | config
  /-- RO: writes are ignored with no error (R49). -/
  | readOnly
  deriving DecidableEq, Repr

/-- The index of a register (R16). -/
def Reg.idx (r : Reg) : BitVec 4 :=
  match r with
  | .cmd => 0x0#4
  | .status => 0x1#4
  | .ctrl => 0x2#4
  | .offset => 0x3#4
  | .scale => 0x4#4
  | .settle => 0x5#4
  | .backoff => 0x6#4
  | .interframe => 0x7#4
  | .timeout => 0x8#4
  | .arg => 0x9#4
  | .acc => 0xA#4
  | .raw => 0xB#4
  | .value => 0xC#4
  | .rate => 0xD#4
  | .frameCount => 0xE#4
  | .startTime => 0xF#4

/-- The register at an index: total, since the space is fully populated (R58). -/
def Reg.ofIdx (i : BitVec 4) : Reg :=
  match i.toNat with
  | 0 => .cmd
  | 1 => .status
  | 2 => .ctrl
  | 3 => .offset
  | 4 => .scale
  | 5 => .settle
  | 6 => .backoff
  | 7 => .interframe
  | 8 => .timeout
  | 9 => .arg
  | 10 => .acc
  | 11 => .raw
  | 12 => .value
  | 13 => .rate
  | 14 => .frameCount
  | _ => .startTime

/-- The width of a register in bits (R16). -/
def Reg.width (r : Reg) : Nat :=
  match r with
  | .cmd | .status | .ctrl | .offset | .settle | .backoff | .interframe | .timeout => 32
  | .arg | .acc | .raw => 24
  | .scale | .value | .rate | .frameCount | .startTime => 64

/-- How the host may use a register (R16). -/
def Reg.access (r : Reg) : Access :=
  match r with
  | .cmd => .writeOnly
  | .status => .statusBits
  | .ctrl => .always
  | .offset | .scale | .settle | .backoff | .interframe | .timeout | .arg => .config
  | .acc | .raw | .value | .rate | .frameCount | .startTime => .readOnly

end Sys2Proof.Machine
end

