-- ==== Sys2Proof/Machine/HostProgram.lean ====
section
/-! DEFINITION. The host program syntax (spec R72, R73): lines, pseudo-instructions and their expansions. The encoding
of a line needs the command words and stands in Machine/HostAgent.lean. -/

namespace Sys2Proof.Machine

/-- The condition of a host `if`: bit `bit` of the value last read from `reg` is `value`. The spec uses no other form
(assumption 12). -/
structure HostCond where
  reg : Reg
  bit : Nat
  value : Bit
  deriving DecidableEq, Repr

/-- One line of a host program (R72). -/
inductive HostLine where
  /-- `wr REG, value`. -/
  | wr (r : Reg) (v : Nat)
  /-- `rd REG`. -/
  | rd (r : Reg)
  /-- `cmd MNEMONIC`. -/
  | cmd (i : Instr)
  /-- `label:`. -/
  | label (l : String)
  /-- `if condition goto label`: host control flow, no bus transaction. -/
  | ifGoto (c : HostCond) (l : String)
  deriving DecidableEq, Repr

/-- The pseudo-instructions of R73. -/
inductive HostPseudo where
  | waitIdle
  | waitFrame
  | clr
  | calib (r : Nat)
  | exec (i : Instr)
  deriving DecidableEq, Repr

/-- One bus transaction, `W idx data` or `R idx` (R72). -/
inductive HostTxn where
  | write (idx : BitVec 4) (data : U64)
  | read (idx : BitVec 4)
  deriving DecidableEq, Repr

/-- `wait_idle` with the loop's label chosen (R73). -/
def expandWaitIdle (l : String) : List HostLine :=
  [.label l, .rd .status, .ifGoto { reg := .status, bit := 0, value := true } l]

/-- The expansion of a pseudo-instruction (R73). The label names the expansion's own loops: R73 writes L in all of them,
and the model lets the program's writer choose it (assumption 12). -/
def HostPseudo.expand (l : String) (p : HostPseudo) : List HostLine :=
  match p with
  | .waitIdle => expandWaitIdle l
  | .waitFrame =>
    [.label l, .rd .status, .ifGoto { reg := .status, bit := 9, value := false } l, .wr .status 0x200]
  | .clr => [.wr .status 0x700]
  | .calib r =>
    [.wr .arg (r ^^^ 0x800000), .cmd .decode] ++ expandWaitIdle (l ++ ".1")
      ++ [.cmd .calibrate] ++ expandWaitIdle (l ++ ".2")
  | .exec i => [.cmd i] ++ expandWaitIdle l

end Sys2Proof.Machine
end

