-- ==== Sys2Proof/WellFormed.lean ====
section
/-! DEFINITION. What a well-formed term is: a command (no command has an operand, spec R67, so each is), a build
(the legal values of R7), a line and a program of the host (R72: a value at most the register's width). -/

namespace Sys2Proof

/-- Every command is well formed: it has no immediate, register field or operand mode to check (R67). -/
def Instr.wellFormed (_ : Instr) : Bool := true

/-- The legal values of the build parameters (R7): one clause a row of its table. -/
def Build.legal (b : Build) : Bool :=
  decide (0 < b.clkHz)
    && decide (0 < b.tickHz ∧ b.tickHz ≤ 4294967295)
    && decide (b.syncStages ≤ 3)
    && decide (1 ≤ b.calcLatency ∧ b.calcLatency ≤ 65536)
    && decide (b.settleRst ≠ 0#32)
    && decide (b.backoffRst ≠ 0#32)

/-- A host line is well formed when its value fits its register's width (R72) and its condition tests a bit of it. -/
def Machine.HostLine.wellFormed (line : Machine.HostLine) : Bool :=
  match line with
  | .wr r v => decide (v < 2 ^ r.width)
  | .rd _ => true
  | .cmd i => i.wellFormed
  | .label _ => true
  | .ifGoto c _ => decide (c.bit < c.reg.width)

/-- A host program is well formed when each line is and each `goto` names a label of the program (R72). A label that
stands twice is not refused, since R72 does not forbid it; where its `goto` goes is assumption 12. -/
def Machine.hostProgramWellFormed (prog : List Machine.HostLine) : Bool :=
  prog.all fun line =>
    line.wellFormed
      && match line with
        | .ifGoto _ l => prog.contains (.label l)
        | .wr _ _ | .rd _ | .cmd _ | .label _ => true

end Sys2Proof
end

