-- ==== Sys2Proof/Decode.lean ====
section
/-! DEFINITION. Decoding and encoding of the one format CMD32 (spec R66, R68, R70, R71): OPC in bits 3:0, RSVD in
bits 31:4. Decoding is total on 32-bit words and rejects by name; the host bus has no bytes (R52), so a word is the
unit of decoding. -/

namespace Sys2Proof

/-- Why a CMD word is illegal (R70). Both raise ILLEGAL_CMD. -/
inductive Reject where
  /-- RSVD, bits 31:4, is not 0. -/
  | reservedBits
  /-- RSVD is 0 and OPC is 0x8 to 0xF. -/
  | unassignedOpcode
  deriving DecidableEq, Repr

/-- What decoding answers. -/
inductive Decoded where
  | command (i : Instr)
  | illegal (r : Reject)
  deriving DecidableEq, Repr

/-- OPC, bits 3:0 of a CMD word (R66). -/
def opcOf (w : Word) : BitVec 4 := w.extractLsb' 0 4

/-- RSVD, bits 31:4 of a CMD word (R66). -/
def rsvdOf (w : Word) : BitVec 28 := w.extractLsb' 4 28

/-- The opcode map of R68, OPC 0x8 to 0xF unassigned. -/
def commandOfOpc (opc : BitVec 4) : Decoded :=
  match opc.toNat with
  | 0 => .command .nop
  | 1 => .command .pulse
  | 2 => .command .readFrame
  | 3 => .command .decode
  | 4 => .command .calibrate
  | 5 => .command .recordRate
  | 6 => .command .acquire
  | 7 => .command .run
  | _ => .illegal .unassignedOpcode

/-- The command a CMD word stands for, or why it is illegal (R68, R70). -/
def decodeWord (w : Word) : Decoded :=
  if rsvdOf w = 0#28 then commandOfOpc (opcOf w) else .illegal .reservedBits

/-- The OPC of a command (R68); also what the hidden register OP holds while the command runs (R36). -/
def opcodeOf (i : Instr) : BitVec 4 :=
  match i with
  | .nop => 0x0#4
  | .pulse => 0x1#4
  | .readFrame => 0x2#4
  | .decode => 0x3#4
  | .calibrate => 0x4#4
  | .recordRate => 0x5#4
  | .acquire => 0x6#4
  | .run => 0x7#4

/-- The CMD32 word of a command: RSVD = 0 above its OPC (R66, R68). -/
def encode (i : Instr) : Word := 0#28 ++ opcodeOf i

/-- The command a decoding answers, if any. -/
def Decoded.command? (d : Decoded) : Option Instr :=
  match d with
  | .command i => some i
  | .illegal _ => none

/-- The host's view of the decoder: the command of the word whose low `nbits` bits are `w`, every higher bit 0. A
command word is one 32-bit bus value, with no byte order and no later word (R52, R66). -/
def decodeTableWord (nbits w : Nat) : Option Instr :=
  (decodeWord (BitVec.ofNat 32 (w % 2 ^ nbits))).command?

end Sys2Proof
end

