-- ==== Sys2Proof/Machine/State.lean ====
section
/-! DEFINITION. The state of the block (spec 10_state.md), as plain data: every register, flag and hidden register the
spec names, the state its rules imply, and the model's own fields for the outside world. Also the state after reset
(R45) and the reasons a step can stop. -/

namespace Sys2Proof.Machine

/-- STATE, the sequencer state (R35). Code 7 is never entered and has no constructor (93 U17). -/
inductive SeqState where
  | idle | init | delay | poll | backoff | clocking | process
  deriving DecidableEq, Repr

/-- PHASE, the half of the current pulse (R38). -/
inductive Phase where
  | low | high
  deriving DecidableEq, Repr

/-- The error codes of R108. Codes 5 to 7 are never recorded and have no constructor (93 U17). -/
inductive ErrCode where
  | none | illegalCmd | busy | cfgScale | readyTimeout
  deriving DecidableEq, Repr

/-- A port event of the event level (R10, R11). -/
inductive PinEvent where
  /-- `PinWrite(SCK, b)`. -/
  | write (b : Bit)
  /-- `PinRead(DOUT) = b`. -/
  | read (b : Bit)
  deriving DecidableEq, Repr

/-- The levels on the block's input ports (R13) in the cycle that ends at one edge of `clk`. -/
structure EdgeIn where
  rst : Bit
  dout : Bit
  now : U64
  regIdx : BitVec 4
  regWr : Bit
  regRd : Bit
  regWdata : U64
  deriving DecidableEq, Repr

/-- Everything the spec gives the block, after one edge of `clk` and before the next. -/
structure State where
  /-- The build (R7); no step changes it. -/
  build : Build
  /-- SCK_Q, the flip-flop that drives `sck` (R15). -/
  sckQ : Bit
  /-- STATE (R35); STATUS.BUSY is STATE ≠ IDLE (R18). -/
  seq : SeqState
  /-- STATUS.RUNNING (R18). -/
  running : Bit
  /-- STATUS.LAST_BIT (R18). -/
  lastBit : Bit
  /-- STATUS.DONE_P (R18). -/
  doneP : Bit
  /-- STATUS.FRAME_P (R18). -/
  frameP : Bit
  /-- STATUS.ERR_P (R18). -/
  errP : Bit
  /-- STATUS.ERR_CODE (R18, R108). -/
  errCode : ErrCode
  /-- STATUS.BITCNT (R34). -/
  bitcnt : BitVec 5
  /-- CTRL, its three defined bits: IE_DONE, IE_FRAME, IE_ERR (R19). -/
  ctrl : BitVec 3
  /-- OFFSET (R20). -/
  offset : Word
  /-- SCALE (R21). -/
  scale : F64
  /-- SETTLE (R22). -/
  settle : Word
  /-- BACKOFF (R23). -/
  backoff : Word
  /-- INTERFRAME (R24). -/
  interframe : Word
  /-- TIMEOUT (R25). -/
  timeout : Word
  /-- ARG (R26). -/
  arg : U24
  /-- ACC (R27). -/
  acc : U24
  /-- RAW (R28). -/
  raw : U24
  /-- VALUE (R29). -/
  value : F64
  /-- RATE (R30). -/
  rate : F64
  /-- FRAME_COUNT (R31). -/
  frameCount : U64
  /-- START_TIME (R32). -/
  startTime : U64
  /-- OP, the running command; NOP, opcode 0, in IDLE (R36). Its four bits are `opcodeOf op`. -/
  op : Instr
  /-- PHASE (R38). -/
  phase : Phase
  /-- CNT, the down-counter of the current Wait (R38). -/
  cnt : Word
  /-- POLLS, failed polls of the current wait (R39). -/
  polls : Word
  /-- SYNC, oldest level first: the head is the end `PinRead(DOUT)` returns (R40). -/
  sync : List Bit
  /-- D_TMP (R41). -/
  dTmp : U24
  /-- FV_Q, which drives `frame_valid` (R42). -/
  fvQ : Bit
  /-- Implied by R78: the bit `b` of PULSE between its sample and its commit to LAST_BIT (assumption 7). -/
  pulseBit : Bit
  /-- Implied by R126: no edge with `rst` 0 has come since the last reset edge (assumption 8). -/
  fresh : Bit
  /-- MODEL: the input levels of the coming cycles, the next one first (assumption 4). -/
  inputs : List EdgeIn
  /-- MODEL: edges of `clk` so far; it indexes the free values of Config (assumption 4). -/
  edges : Nat
  /-- `reg_rdata` as the host took it at the last edge (R45, R47, assumption 10). -/
  rdata : U64
  /-- MODEL: the port events of the last edge, in order (R11, assumption 5). -/
  pinEvents : List PinEvent
  /-- MODEL: the error recorded at the last edge, if any; `raise Err` reads it to keep the lower code (R109). -/
  edgeErr : Option ErrCode
  deriving DecidableEq, Repr

/-- The faults of a step. The block has none that the spec describes: it has no traps and never halts (R107), and no
access faults on its address (R59). -/
inductive Fault where
  /-- Raised by the sequencer's commits of CALIBRATE, ACQUIRE and RUN in a state whose SCALE is not valid (R21).
  No run from reset reaches one: SCALE is checked at acceptance and locked while busy (R69, R50, R92). Safe: `calibrate`
  has no value there (R90 reads SCALE "as a valid f64"), and none is chosen. -/
  | calibrateWithoutScale
  deriving DecidableEq, Repr

/-- Why a step has no meaning. -/
inductive Refusal where
  /-- An arm of exec that is not modelled; no arm is left so. Safe. -/
  | notModelled (mnemonic : String)
  /-- Raised by the sequencer when OP holds a command whose procedure never enters this STATE (R37), such as NOP in
  PROCESS. No run from reset reaches one. Safe: the spec gives such a state no next step, and none is chosen. -/
  | offProcedure (op : Instr) (seq : SeqState)
  deriving DecidableEq, Repr

/-- The state a reset edge leaves (R45): `now` is the timebase at that edge; the inputs still to come and the count
of edges are the model's own. -/
def State.afterReset (b : Build) (now : U64) (inputs : List EdgeIn) (edges : Nat) : State where
  build := b
  sckQ := false
  seq := .idle
  running := false
  lastBit := false
  doneP := false
  frameP := false
  errP := false
  errCode := .none
  bitcnt := 0#5
  ctrl := 0#3
  offset := b.offsetRst
  scale := b.scaleRst
  settle := b.settleRst
  backoff := b.backoffRst
  interframe := b.interframeRst
  timeout := b.timeoutRst
  arg := 0#24
  acc := 0#24
  raw := 0#24
  value := 0#64
  rate := 0#64
  frameCount := 0#64
  startTime := now
  op := .nop
  phase := .low
  cnt := 0#32
  polls := 0#32
  sync := List.replicate b.syncStages true
  dTmp := 0#24
  fvQ := false
  pulseBit := false
  fresh := true
  inputs := inputs
  edges := edges
  rdata := 0#64
  pinEvents := []
  edgeErr := .none

/-- The block right after reset (R45): the default build, START_TIME the free timebase of edge 0, no input given. -/
def State.reset : State := State.afterReset Config.build (Config.freeNow 0) [] 1

end Sys2Proof.Machine
end

