-- ==== Sys2Proof/Machine/Ops.lean ====
section
/-! DEFINITION. The primitives every rule uses (spec R10): the input ports, PinWrite and PinRead, Wait, raise Err,
and the register reads and plain register writes of the host's space. The block has no memory, no traps and no return
from one (R46, R116, R117): recording an error is `raiseErr`, and clearing its report is `clearPending`. -/

namespace Sys2Proof.Machine

/-- Goes on from a next state; a fault or a refusal stays. -/
def andThen (o : Host.Outcome State Fault Refusal) (f : State → Host.Outcome State Fault Refusal) :
    Host.Outcome State Fault Refusal :=
  match o with
  | .next s => f s
  | .fault r => .fault r
  | .refused r => .refused r

/-- The next state an outcome holds, if any. -/
def nextOf (o : Host.Outcome State Fault Refusal) : Option State :=
  match o with
  | .next s => some s
  | .fault _ => none
  | .refused _ => none

/-! ## Input ports -/

/-- The input levels of a cycle for which none are given: no reset and no host access; `dout` and `now` are free
(assumption 4). -/
def freeIn (edge : Nat) : EdgeIn where
  rst := false
  dout := Config.freeDout edge
  now := Config.freeNow edge
  regIdx := 0#4
  regWr := false
  regRd := false
  regWdata := 0#64

/-- The input levels in the cycle that ends at the coming edge (R13). -/
def portIn (s : State) : EdgeIn :=
  match s.inputs with
  | i :: _ => i
  | [] => freeIn s.edges

/-- `Now()`: the input `now` at the current edge (R10). -/
def nowAt (s : State) : U64 := (portIn s).now

/-! ## Pins -/

/-- STATUS.BUSY: the sequencer is not in IDLE (R18). -/
def busy (s : State) : Bool := decide (s.seq ≠ .idle)

/-- SYNC after one edge: `dout` goes in at one end and the oldest level falls out (R40). -/
def shiftSync (sync : List Bit) (dout : Bit) : List Bit := (sync ++ [dout]).tail

/-- The output of the synchroniser at the current edge; with no stage, `dout` itself (R40). -/
def syncOut (sync : List Bit) (dout : Bit) : Bit := (sync ++ [dout]).headD dout

/-- The bit `PinRead(DOUT)` returns at the current edge (R56). -/
def doutLevel (s : State) : Bit := syncOut s.sync (portIn s).dout

/-- `PinRead(DOUT)` changes no state (R56); the event is noted. The bit is `doutLevel s`. -/
def pinRead (s : State) : State := { s with pinEvents := s.pinEvents ++ [.read (doutLevel s)] }

/-- `PinWrite(SCK, b)` (R55). -/
def pinWrite (b : Bit) (s : State) : State :=
  { s with sckQ := b, pinEvents := s.pinEvents ++ [.write b] }

/-! ## Waits -/

/-- `Wait(n)` for n ≥ 1: CNT counts down from n (R137). -/
def waitFor (n : Word) (s : State) : State := { s with cnt := n }

/-- One cycle of a Wait that goes on (R137). -/
def countDown (s : State) : State := { s with cnt := s.cnt - 1#32 }

/-- The coming edge is the last of the current Wait, so the next action takes effect at it (R137). -/
def waitEnds (s : State) : Bool := decide (s.cnt.toNat ≤ 1)

/-! ## Errors -/

/-- The number of an error code (R108). -/
def ErrCode.code (c : ErrCode) : BitVec 3 :=
  match c with
  | .none => 0#3
  | .illegalCmd => 1#3
  | .busy => 2#3
  | .cfgScale => 3#3
  | .readyTimeout => 4#3

/-- The error with the lower code of two (R109). -/
def lowerErr (c d : ErrCode) : ErrCode := if c.code.toNat ≤ d.code.toNat then c else d

/-- The code recorded when `c` is raised at an edge at which `earlier` may have been raised already (R109). -/
def recordedErr (earlier : Option ErrCode) (c : ErrCode) : ErrCode :=
  match earlier with
  | some d => lowerErr c d
  | none => c

/-- `raise Err(c)` (R109): ERR_P and ERR_CODE, the lower code when two errors meet at one edge. Nothing else changes
and control is not transferred (R107). -/
def raiseErr (c : ErrCode) (s : State) : State :=
  { s with
    errP := true
    errCode := recordedErr s.edgeErr c
    edgeErr := some (recordedErr s.edgeErr c) }

/-! ## Edges -/

/-- What every edge with `rst` 0 does first: FV_Q falls (R42) and the events of the last edge are forgotten. -/
def beginEdge (s : State) : State :=
  { s with fvQ := false, fresh := false, pinEvents := [], edgeErr := none }

/-- What every edge with `rst` 0 does last: SYNC shifts (R40), `rdata` takes what the host read in the cycle, and the
cycle's inputs are used up. -/
def finishEdge (rdata : U64) (s : State) : State :=
  { s with
    sync := shiftSync s.sync (portIn s).dout
    inputs := s.inputs.tail
    edges := s.edges + 1
    rdata := rdata }

/-- A reset edge (R45, R125): every piece of state takes its reset value, START_TIME loads `now` (R32), and the host's
write at that edge has no effect. -/
def resetEdge (s : State) : State :=
  State.afterReset s.build (nowAt s) s.inputs.tail (s.edges + 1)

/-- The command is over: IDLE, OP 0, no wait left (R36, R137). Its commands set DONE_P at this edge (R111). -/
def complete (s : State) : State :=
  { s with seq := .idle, op := .nop, cnt := 0#32, doneP := true }

end Sys2Proof.Machine
end

