-- ==== Sys2Proof/Machine/Flags.lean ====
section
/-! DEFINITION. The STATUS and CTRL views (spec R18, R19), the interrupt output (R113), and the write-one-to-clear
bits (R18, R112). The block has no condition codes (R43). -/

namespace Sys2Proof.Machine

/-- The code of STATE, STATUS[3:1] (R35). -/
def SeqState.code (q : SeqState) : BitVec 3 :=
  match q with
  | .idle => 0#3
  | .init => 1#3
  | .delay => 2#3
  | .poll => 3#3
  | .backoff => 4#3
  | .clocking => 5#3
  | .process => 6#3

/-- STATUS as the host reads it, bit 31 down to bit 0, every reserved bit 0 (R18). -/
def statusWord (s : State) : Word :=
  0#11 ++ s.bitcnt ++ 0#1 ++ s.errCode.code ++ 0#1 ++ Bit.vec s.errP ++ Bit.vec s.frameP ++ Bit.vec s.doneP
    ++ 0#1 ++ Bit.vec s.sckQ ++ Bit.vec s.lastBit ++ Bit.vec s.running ++ s.seq.code ++ Bit.vec (busy s)

/-- CTRL as the host reads it: bits 31:3 read 0 (R19). -/
def ctrlWord (s : State) : Word := 0#29 ++ s.ctrl

/-- CTRL.IE_DONE (R19). -/
def ieDone (s : State) : Bit := s.ctrl.getLsbD 0

/-- CTRL.IE_FRAME (R19). -/
def ieFrame (s : State) : Bit := s.ctrl.getLsbD 1

/-- CTRL.IE_ERR (R19). -/
def ieErr (s : State) : Bit := s.ctrl.getLsbD 2

/-- The output `irq`, a level computed from the registers after each edge (R113). -/
def irq (s : State) : Bit := (s.doneP && ieDone s) || (s.frameP && ieFrame s) || (s.errP && ieErr s)

/-- The output `sck` (R15). -/
def sckPort (s : State) : Bit := s.sckQ

/-- The output `frame_valid` (R42). -/
def frameValid (s : State) : Bit := s.fvQ

/-- A write clears ERR_P when bit 10 of it is 1 and no error is raised at the same edge (R109, R112). -/
def clearsErr (v : Word) (s : State) : Bool := v.getLsbD 10 && s.edgeErr.isNone

/-- A host write of `v` to STATUS: each W1C bit whose position in `v` is 1 is cleared, ERR_CODE with ERR_P, and every
other field stays (R18, R109). A bit the sequencer sets at the same edge is set after this (R112). -/
def clearPending (v : Word) (s : State) : State :=
  { s with
    doneP := s.doneP && !v.getLsbD 8
    frameP := s.frameP && !v.getLsbD 9
    errP := s.errP && !clearsErr v s
    errCode := if clearsErr v s then .none else s.errCode }

end Sys2Proof.Machine
end

