-- ==== Sys2Proof/Machine/Float.lean ====
section
/-! DEFINITION. IEEE 754 binary64 as the block uses it (spec R12, R44, 93 G7): the exact value of a finite pattern as
an integer significand and a power of two, and `rne64` of a quotient of naturals, computed exactly and rounded once to
nearest, ties to even, overflow to infinity. -/

namespace Sys2Proof.Machine

/-- The sign bit, 63. -/
def f64Sign (x : F64) : Bit := x.getLsbD 63

/-- The exponent field, bits 62:52. -/
def f64Exponent (x : F64) : Nat := (x.extractLsb' 52 11).toNat

/-- The fraction field, bits 51:0. -/
def f64Fraction (x : F64) : Nat := (x.extractLsb' 0 52).toNat

/-- The integer significand of a finite pattern: the hidden bit is 1 unless the exponent field is 0. -/
def f64Significand (x : F64) : Nat :=
  if f64Exponent x = 0 then f64Fraction x else 2 ^ 52 + f64Fraction x

/-- The power of two that the significand of a finite pattern counts: `|x| = f64Significand x * 2 ^ f64Power x`. -/
def f64Power (x : F64) : Int :=
  if f64Exponent x = 0 then -1074 else (f64Exponent x : Int) - 1075

/-- The magnitude bits, 62:0, of the infinities. -/
def f64InfBits : Nat := 0x7FF0000000000000

/-- `num / den` rounded to the nearest integer, a tie to the even one. -/
def roundHalfEven (num den : Nat) : Nat :=
  let q := num / den
  let r := num % den
  if 2 * r < den then q
  else if den < 2 * r then q + 1
  else q + q % 2

/-- Whether `num / den ≥ 2 ^ e`. -/
def quotientGe (num den : Nat) (e : Int) : Bool :=
  decide (den * 2 ^ e.toNat ≤ num * 2 ^ (-e).toNat)

/-- The exponent of the binade that holds `num / den`: the greatest e with `2 ^ e ≤ num / den`. -/
def quotientLog2 (num den : Nat) : Int :=
  let e : Int := (Nat.log2 num : Int) - (Nat.log2 den : Int)
  if quotientGe num den e then e else e - 1

/-- The power of two that the last significand bit of the result counts: the binade's, or the least one for
subnormals. -/
def quotientUlp (num den : Nat) : Int := max (quotientLog2 num den) (-1022) - 52

/-- `num / den` in units of `2 ^ quotientUlp`, rounded once. -/
def quotientSignificand (num den : Nat) : Nat :=
  let u := quotientUlp num den
  roundHalfEven (num * 2 ^ (-u).toNat) (den * 2 ^ u.toNat)

/-- Magnitude bits of `rne64 (num / den)` for positive `num` and `den`: adding the significand, hidden bit and all, to
the exponent field below lets a carry move up a binade, and overflow becomes infinity (R12). -/
def quotientBits (num den : Nat) : Nat :=
  min ((quotientUlp num den + 1074).toNat * 2 ^ 52 + quotientSignificand num den) f64InfBits

/-- `rne64` of `num / den`, negated when `neg`; a zero numerator gives the zero of that sign (R12, R90). -/
def rneQuotient (neg : Bit) (num den : Nat) : F64 :=
  BitVec.ofNat 64 ((if neg then 2 ^ 63 else 0) + if num = 0 then 0 else quotientBits num den)

end Sys2Proof.Machine
end

