-- ==== Sys2Proof/Machine/Operands.lean ====
section
/-! DEFINITION. The operands the commands take from fixed registers (spec R67), and their acceptance: the SCALE check
(R21), the command OP holds (R36) and the one decision of R69. -/

namespace Sys2Proof.Machine

/-- SCALE is valid: a finite non-zero number, its exponent field not 0x7FF and bits 62:0 not all zero (R21). -/
def f64Valid (x : F64) : Bool :=
  decide (f64Exponent x ≠ 0x7FF) && decide (x.extractLsb' 0 63 ≠ 0#63)

/-- SCALE is valid in this state (R21). -/
def scaleValid (s : State) : Bool := f64Valid s.scale

/-- The commands whose acceptance checks SCALE (R69). -/
def needsScale (i : Instr) : Bool :=
  match i with
  | .calibrate | .acquire | .run => true
  | .nop | .pulse | .readFrame | .decode | .recordRate => false

/-- The commands that read a frame (R36: OP selects which steps follow a frame or a pulse). -/
def readsFrame (i : Instr) : Bool :=
  match i with
  | .readFrame | .acquire | .run => true
  | .nop | .pulse | .decode | .calibrate | .recordRate => false

/-- OPC of the running command as the four bits of OP (R36). -/
def opBits (s : State) : BitVec 4 := opcodeOf s.op

/-- The acceptance of a command other than NOP (R69): BUSY first, then SCALE where the command needs it, else OP is
written and `start`, the procedure's first action, takes effect at this edge. -/
def offer (i : Instr) (start : State → State) (s : State) : State :=
  if busy s then raiseErr .busy s
  else if needsScale i && !scaleValid s then raiseErr .cfgScale s
  else start { s with op := i }

/-- CALC_LATENCY as CNT holds it (R7, R38). -/
def calcCycles (s : State) : Word := BitVec.ofNat 32 s.build.calcLatency

/-- `state <- PROCESS; Wait(CALC_LATENCY)`: the wait before a commit (R35, R88, R89, R97, R98, R102, R103). -/
def beginProcess (s : State) : State := waitFor (calcCycles s) { s with seq := .process }

end Sys2Proof.Machine
end

