-- ==== Sys2Proof/Machine/ClockDriver.lean ====
section
/-! DEFINITION. The clock driver (spec 40_clock_driver.md): the two halves of a pulse, the idle pulse, and the command
PULSE. A pulse is `clock-high, settle, sample, clock-low, settle` (R75). -/

namespace Sys2Proof.Machine

/-- The first actions of a pulse: PHASE HIGH, SCK rises, Wait(SETTLE) (R74, R76). -/
def pulseRise (s : State) : State := waitFor s.settle (pinWrite true { s with phase := .high })

/-- The middle actions of a pulse, after the sample if it has one: PHASE LOW, SCK falls, Wait(SETTLE) (R74, R76). -/
def pulseFall (s : State) : State := waitFor s.settle (pinWrite false { s with phase := .low })

/-- The first action of PULSE (R78). -/
def startPulse (s : State) : State := pulseRise { s with seq := .clocking }

/-- PULSE offered (R78, R69). -/
def execPulse (s : State) : Host.Outcome State Fault Refusal := .next (offer .pulse startPulse s)

/-- The sample edge of PULSE: the bit is read and kept for the commit, then SCK falls (R74, R78). -/
def samplePulse (s : State) : State :=
  pulseFall { pinRead s with pulseBit := doutLevel s }

/-- The commit of PULSE, at the end of its low half: LAST_BIT, IDLE, DONE_P (R78). -/
def commitPulse (s : State) : State := complete { s with lastBit := s.pulseBit }

end Sys2Proof.Machine
end

