-- ==== Sys2Proof/Machine/FrameReader.lean ====
section
/-! DEFINITION. The frame reader and decoder (spec 41_frame_reader.md): the wait for data ready, the 24 data pulses and
the gain pulse, the XOR decode, and the commands READ_FRAME and DECODE. -/

namespace Sys2Proof.Machine

/-- `decode(a) = a XOR 0x800000` (R87). -/
def decodeFrame (a : U24) : U24 := a ^^^ Config.signMask

/-- `state <- POLL; Wait(1)` (R79). -/
def beginPoll (s : State) : State := waitFor 1#32 { s with seq := .poll }

/-- WaitReady begins: POLLS is 0 and the first poll comes one cycle later, with no back-off before it (R79). -/
def beginWait (s : State) : State := beginPoll { s with polls := 0#32 }

/-- A failed poll counted, saturating at 2^32 - 1 (R39, R79). -/
def pollsAfter (polls : Word) : Word := if polls = 0xFFFFFFFF#32 then polls else polls + 1#32

/-- The ready timeout: TIMEOUT is not 0 and that many polls in a row have failed (R79, R81). -/
def pollsTimedOut (timeout polls : Word) : Bool :=
  decide (timeout ≠ 0#32) && decide (timeout.toNat ≤ polls.toNat)

/-- `state <- BACKOFF; Wait(BACKOFF)` (R79). -/
def beginBackoff (s : State) : State := waitFor s.backoff { s with seq := .backoff }

/-- Clocking of a frame starts: ACC and BITCNT are cleared and the first data pulse begins (R82). -/
def beginClocking (s : State) : State :=
  pulseRise { s with seq := .clocking, acc := 0#24, bitcnt := 0#5 }

/-- ACC takes one more bit at its low end (R82). -/
def accAfter (acc : U24) (b : Bit) : U24 := (acc <<< 1) ||| (Bit.vec b).setWidth 24

/-- The sample of a frame pulse: a data pulse shifts its bit into ACC, the gain pulse's bit is discarded, and BITCNT
counts both (R82, R84); then SCK falls. -/
def sampleFrame (s : State) : State :=
  pulseFall
    { pinRead s with
      acc := if s.bitcnt.toNat < Config.dataBits then accAfter s.acc (doutLevel s) else s.acc
      bitcnt := s.bitcnt + 1#5 }

/-- The end of the gain pulse: D_TMP takes the decoded frame and PROCESS begins (R82, R88, R102, R103). -/
def endFrame (s : State) : State := beginProcess { s with dTmp := decodeFrame s.acc }

/-- The end of a frame pulse: the next pulse begins, or the frame ends after the 25th (R82, R85). -/
def endFramePulse (s : State) : State :=
  if s.bitcnt.toNat < Config.pulsesPerFrame then pulseRise s else endFrame s

/-- READ_FRAME offered (R88, R69): its first action begins the wait for data ready. -/
def execReadFrame (s : State) : Host.Outcome State Fault Refusal := .next (offer .readFrame beginWait s)

/-- READ_FRAME times out: READY_TIMEOUT, IDLE, DONE_P, at the edge of the last failed poll (R88). -/
def timeoutReadFrame (s : State) : State := complete (raiseErr .readyTimeout s)

/-- The commit of READ_FRAME (R88). -/
def commitReadFrame (s : State) : State := complete { s with raw := s.dTmp }

/-- DECODE offered (R89, R69). -/
def execDecode (s : State) : Host.Outcome State Fault Refusal := .next (offer .decode beginProcess s)

/-- The commit of DECODE: RAW is the decoded ARG (R89). -/
def commitDecode (s : State) : State := complete { s with raw := decodeFrame s.arg }

end Sys2Proof.Machine
end

