-- ==== Sys2Proof/Machine/Calibrator.lean ====
section
/-! DEFINITION. The calibrator (spec 42_calibrator.md): `calibrate`, the frame count and rate, and the commands
CALIBRATE and RECORD_RATE. -/

namespace Sys2Proof.Machine

/-- `raw - OFFSET`, exact: RAW unsigned, OFFSET two's complement (R90). -/
def calibDiff (raw : U24) (offset : Word) : Int := (raw.toNat : Int) - offset.toInt

/-- `calibrate(raw)`: the exact quotient of the difference by SCALE, rounded once; a zero difference gives the zero of
SCALE's sign (R90, R91). SCALE is valid wherever a commit uses this. -/
def calibrate (raw : U24) (offset : Word) (scale : F64) : F64 :=
  let diff := calibDiff raw offset
  let power := f64Power scale
  rneQuotient (decide (diff < 0) ^^ f64Sign scale)
    (diff.natAbs * 2 ^ (-power).toNat) (f64Significand scale * 2 ^ power.toNat)

/-- RATE for a count and a number of elapsed ticks: +0.0 when none elapsed, else the exact quotient rounded once
(R94). -/
def frameRate (tickHz : Nat) (count elapsed : U64) : F64 :=
  if elapsed = 0#64 then 0#64 else rneQuotient false (count.toNat * tickHz) elapsed.toNat

/-- `RecordRate(t)`: the count rises first, modulo 2^64, and the rate uses the new count (R94). -/
def recordFrame (t : U64) (s : State) : State :=
  { s with
    frameCount := s.frameCount + 1#64
    rate := frameRate s.build.tickHz (s.frameCount + 1#64) (t - s.startTime) }

/-- CALIBRATE offered (R97, R69). -/
def execCalibrate (s : State) : Host.Outcome State Fault Refusal := .next (offer .calibrate beginProcess s)

/-- A commit that needs `calibrate` has no value when SCALE is not valid, which acceptance rules out (R69, R92). -/
def withValidScale (f : State → State) (s : State) : Host.Outcome State Fault Refusal :=
  if scaleValid s then .next (f s) else .fault .calibrateWithoutScale

/-- VALUE takes the calibrated `raw` (R90). -/
def storeValue (raw : U24) (s : State) : State := { s with value := calibrate raw s.offset s.scale }

/-- The commit of CALIBRATE (R97). -/
def commitCalibrate (s : State) : Host.Outcome State Fault Refusal :=
  withValidScale (fun s => complete (storeValue s.raw s)) s

/-- RECORD_RATE offered (R98, R69). -/
def execRecordRate (s : State) : Host.Outcome State Fault Refusal := .next (offer .recordRate beginProcess s)

/-- The commit of RECORD_RATE, with `now` sampled at this edge; FRAME_P is not set (R98). -/
def commitRecordRate (s : State) : State := complete (recordFrame (nowAt s) s)

end Sys2Proof.Machine
end

