-- ==== Sys2Proof/Machine/Acquisition.lean ====
section
/-! DEFINITION. The acquisition loop (spec 43_acquisition.md): the commit of a frame's record, and the commands NOP,
ACQUIRE and RUN. -/

namespace Sys2Proof.Machine

/-- `FrameCommit(d)`: RAW, VALUE, FRAME_COUNT, RATE, FRAME_P and FV_Q, all at one edge; `calibrate` takes the new d
(R100). -/
def frameCommit (d : U24) (s : State) : State :=
  { recordFrame (nowAt s) (storeValue d { s with raw := d }) with frameP := true, fvQ := true }

/-- NOP offered: no action at any time, not checked against BUSY, no flag (R101, R69). -/
def execNop (s : State) : Host.Outcome State Fault Refusal := .next s

/-- ACQUIRE offered (R102, R69). -/
def execAcquire (s : State) : Host.Outcome State Fault Refusal := .next (offer .acquire beginWait s)

/-- ACQUIRE times out: READY_TIMEOUT, IDLE, DONE_P, and no record (R102). -/
def timeoutAcquire (s : State) : State := complete (raiseErr .readyTimeout s)

/-- The commit of ACQUIRE: the record, IDLE and DONE_P at one edge (R102). -/
def commitAcquire (s : State) : Host.Outcome State Fault Refusal :=
  withValidScale (fun s => complete (frameCommit s.dTmp s)) s

/-- The first actions of RUN: RUNNING, INIT, and the rise of the idle pulse (R103, R76). -/
def startRun (s : State) : State := pulseRise { s with running := true, seq := .init }

/-- RUN offered (R103, R69). -/
def execRun (s : State) : Host.Outcome State Fault Refusal := .next (offer .run startRun s)

/-- The middle of the idle pulse: SCK falls, and DOUT is not read (R76). -/
def idlePulseFall (s : State) : State := pulseFall s

/-- `state <- DELAY; Wait(INTERFRAME)`, after which the next pass's wait begins; an INTERFRAME of 0 skips DELAY and the
wait begins at this edge (R103, R137). -/
def beginDelay (s : State) : State :=
  if s.interframe = 0#32 then beginWait s else waitFor s.interframe { s with seq := .delay }

/-- RUN's wait times out: READY_TIMEOUT, no record, and DELAY before the next pass (R104). -/
def timeoutRun (s : State) : State := beginDelay (raiseErr .readyTimeout s)

/-- The commit of one pass of RUN: the record and then DELAY, at one edge; DONE_P is not set (R103, R111). -/
def commitRun (s : State) : Host.Outcome State Fault Refusal :=
  withValidScale (fun s => beginDelay (frameCommit s.dTmp s)) s

end Sys2Proof.Machine
end

