-- ==== Sys2Proof/Machine/Dispatch.lean ====
section
/-! DEFINITION. exec: the effect of each command when it is offered at an edge (spec R69), one arm a command. -/

namespace Sys2Proof.Machine

def exec (i : Instr) (s : State) : Host.Outcome State Fault Refusal :=
  match i with
  | .nop => Sys2Proof.Machine.execNop s
  | .pulse => Sys2Proof.Machine.execPulse s
  | .readFrame => Sys2Proof.Machine.execReadFrame s
  | .decode => Sys2Proof.Machine.execDecode s
  | .calibrate => Sys2Proof.Machine.execCalibrate s
  | .recordRate => Sys2Proof.Machine.execRecordRate s
  | .acquire => Sys2Proof.Machine.execAcquire s
  | .run => Sys2Proof.Machine.execRun s

end Sys2Proof.Machine
end

