-- ==== Sys2Proof/Machine/Sequencer.lean ====
section
/-! DEFINITION. The sequencer (spec R35 to R39, R137): what a running command does at one edge, chosen by the tuple
(OP, STATE, PHASE, CNT, BITCNT) as the procedures of 40 to 43 say. -/

namespace Sys2Proof.Machine

/-- OP holds a command whose procedure never comes here (R37). -/
def offProcedure (s : State) : Host.Outcome State Fault Refusal := .refused (.offProcedure s.op s.seq)

/-- The last failed poll of a wait that times out (R79), by the command that waits. -/
def timeoutStep (s : State) : Host.Outcome State Fault Refusal :=
  match s.op with
  | .readFrame => .next (timeoutReadFrame s)
  | .acquire => .next (timeoutAcquire s)
  | .run => .next (timeoutRun s)
  | .nop | .pulse | .decode | .calibrate | .recordRate => offProcedure s

/-- A failed poll: POLLS is counted, then the timeout or a back-off (R79). -/
def pollFailed (s : State) : Host.Outcome State Fault Refusal :=
  if pollsTimedOut s.timeout (pollsAfter s.polls) then timeoutStep { s with polls := pollsAfter s.polls }
  else .next (beginBackoff { s with polls := pollsAfter s.polls })

/-- The poll: DOUT is read; LOW is data ready (R79). -/
def pollStep (s : State) : Host.Outcome State Fault Refusal :=
  if doutLevel s then pollFailed (pinRead s) else .next (beginClocking (pinRead s))

/-- The edge that ends a pulse's high half in CLOCKING, by the command that pulses (R74, R78, R82). -/
def clockingSample (s : State) : Host.Outcome State Fault Refusal :=
  match s.op with
  | .pulse => .next (samplePulse s)
  | .readFrame | .acquire | .run => .next (sampleFrame s)
  | .nop | .decode | .calibrate | .recordRate => offProcedure s

/-- The edge that ends a pulse in CLOCKING, by the command that pulses (R78, R82). -/
def clockingEnd (s : State) : Host.Outcome State Fault Refusal :=
  match s.op with
  | .pulse => .next (commitPulse s)
  | .readFrame | .acquire | .run => .next (endFramePulse s)
  | .nop | .decode | .calibrate | .recordRate => offProcedure s

/-- The commit, at the end of PROCESS (R60). -/
def processEnd (s : State) : Host.Outcome State Fault Refusal :=
  match s.op with
  | .readFrame => .next (commitReadFrame s)
  | .decode => .next (commitDecode s)
  | .calibrate => commitCalibrate s
  | .recordRate => .next (commitRecordRate s)
  | .acquire => commitAcquire s
  | .run => commitRun s
  | .nop | .pulse => offProcedure s

/-- The next action of a procedure, at the edge that ends its current Wait. -/
def nextAction (s : State) : Host.Outcome State Fault Refusal :=
  match s.seq with
  | .idle => .next s
  | .init =>
    match s.phase with
    | .high => .next (idlePulseFall s)
    | .low => .next (beginWait s)
  | .delay => .next (beginWait s)
  | .poll => pollStep s
  | .backoff => .next (beginPoll s)
  | .clocking =>
    match s.phase with
    | .high => clockingSample s
    | .low => clockingEnd s
  | .process => processEnd s

/-- One edge of a running command: its next action if its Wait ends, else one cycle of the Wait (R137). -/
def advance (s : State) : Host.Outcome State Fault Refusal :=
  if waitEnds s then nextAction s else .next (countDown s)

end Sys2Proof.Machine
end

