-- ==== Sys2Proof/Machine/HostBus.lean ====
section
/-! DEFINITION. The host register space (spec 20_memory.md): reads, writes by register, the offer of a CMD word, and
the parts of a clock edge the step puts together. -/

namespace Sys2Proof.Machine

/-- The value of a register as the host reads it, zero-extended to the bus; CMD reads 0 (R17, R47). -/
def regRead (r : Reg) (s : State) : U64 :=
  match r with
  | .cmd => 0#64
  | .status => (statusWord s).setWidth 64
  | .ctrl => (ctrlWord s).setWidth 64
  | .offset => s.offset.setWidth 64
  | .scale => s.scale
  | .settle => s.settle.setWidth 64
  | .backoff => s.backoff.setWidth 64
  | .interframe => s.interframe.setWidth 64
  | .timeout => s.timeout.setWidth 64
  | .arg => s.arg.setWidth 64
  | .acc => s.acc.setWidth 64
  | .raw => s.raw.setWidth 64
  | .value => s.value
  | .rate => s.rate
  | .frameCount => s.frameCount
  | .startTime => s.startTime

/-- The output `reg_rdata` in the cycle before the coming edge: the register's value at the start of the cycle when
`reg_rd` is 1, else 0 (R47). -/
def regRdata (s : State) : U64 :=
  if (portIn s).regRd then regRead (Reg.ofIdx (portIn s).regIdx) s else 0#64

/-- SETTLE and BACKOFF are WARL: a write of 0 stores 1 (R22, R23). -/
def atLeastOne (v : Word) : Word := if v = 0#32 then 1#32 else v

/-- A write to a configuration register: stored when the block is idle, else ignored with BUSY (R50). -/
def configWrite (store : State → State) (s : State) : State :=
  if busy s then raiseErr .busy s else store s

/-- A word written to CMD: an illegal word raises ILLEGAL_CMD and nothing else; a command is offered (R69, R70). -/
def offerWord (w : Word) (s : State) : Host.Outcome State Fault Refusal :=
  match decodeWord w with
  | .illegal _ => .next (raiseErr .illegalCmd s)
  | .command i => exec i s

/-- A host write of bus value `d` to a register; bits above its width are ignored (R49, R50). -/
def regWrite (r : Reg) (d : U64) (s : State) : Host.Outcome State Fault Refusal :=
  match r with
  | .cmd => offerWord (d.setWidth 32) s
  | .status => .next (clearPending (d.setWidth 32) s)
  | .ctrl => .next { s with ctrl := d.setWidth 3 }
  | .offset => .next (configWrite (fun s => { s with offset := d.setWidth 32 }) s)
  | .scale => .next (configWrite (fun s => { s with scale := d }) s)
  | .settle => .next (configWrite (fun s => { s with settle := atLeastOne (d.setWidth 32) }) s)
  | .backoff => .next (configWrite (fun s => { s with backoff := atLeastOne (d.setWidth 32) }) s)
  | .interframe => .next (configWrite (fun s => { s with interframe := d.setWidth 32 }) s)
  | .timeout => .next (configWrite (fun s => { s with timeout := d.setWidth 32 }) s)
  | .arg => .next (configWrite (fun s => { s with arg := d.setWidth 24 }) s)
  | .acc | .raw | .value | .rate | .frameCount | .startTime => .next s

/-- The host's part of an edge: its write, if `reg_wr` is 1 (R49, R51). -/
def hostPart (s : State) : Host.Outcome State Fault Refusal :=
  if (portIn s).regWr then regWrite (Reg.ofIdx (portIn s).regIdx) (portIn s).regWdata s else .next s

/-- At the first edge after reset with AUTO_RUN = 1 the block offers itself RUN, before the host's write is judged
(R126). -/
def selfOffer (first : Bool) (s : State) : Host.Outcome State Fault Refusal :=
  if first && s.build.autoRun then exec .run s else .next s

/-- The sequencer's part of an edge: a command that was running before the edge goes on (R61). -/
def sequencerPart (wasBusy : Bool) (s : State) : Host.Outcome State Fault Refusal :=
  if wasBusy then advance s else .next s

/-- An edge at which `rst` is 0. The host's write comes before the sequencer's actions, so a bit the sequencer sets
beats the host's clear (R112), and both judge by the state before the edge (R61, R69, R115). -/
def runEdge (s : State) : Host.Outcome State Fault Refusal :=
  andThen (selfOffer s.fresh (beginEdge s)) fun s1 =>
    andThen (hostPart s1) fun s2 =>
      andThen (sequencerPart (busy s) s2) fun s3 =>
        .next (finishEdge (regRdata s) s3)

/-- The state with the host's access in the coming cycle replaced and `rst` 0: `dout` and `now` stay as they were.
That `rst` is 0 there is log 3's for State.withFetchWord and log 12's choice for a host program. -/
def withHostAccess (wr rd : Bit) (idx : BitVec 4) (data : U64) (s : State) : State :=
  { s with
    inputs :=
      { portIn s with rst := false, regWr := wr, regRd := rd, regIdx := idx, regWdata := data }
        :: s.inputs.tail }

end Sys2Proof.Machine
end

