-- ==== Sys2Proof/Machine/Step.lean ====
section
/-! DEFINITION. One step: one rising edge of `clk`, with the input levels of the cycle that ends at it (spec R13,
R61). The block fetches no instruction (R64): a command comes to it as a host write to CMD, so that write is where a
step finds its next instruction (assumption 3). -/

namespace Sys2Proof.Machine

/-- One edge of `clk`: a reset edge when `rst` is 1 (R125), else the host's and the sequencer's parts (R61). -/
def step (s : State) : Host.Outcome State Fault Refusal :=
  if (portIn s).rst then .next (resetEdge s) else runEdge s

/-- The state with the word `w` (low `nbits` bits) written to CMD by the host in the coming cycle. -/
def State.withFetchWord (s : State) (nbits w : Nat) : State :=
  withHostAccess true false Reg.cmd.idx (BitVec.ofNat 64 (w % 2 ^ nbits)) s

end Sys2Proof.Machine
end

