-- ==== Sys2Proof/Machine/HostAgent.lean ====
section
/-! DEFINITION. The host that runs a host program (spec R72, R73): the encoding of a line as a bus transaction, and a
host that makes one transaction a cycle and takes its control flow between cycles (assumption 12). -/

namespace Sys2Proof.Machine

/-- The bus transaction of a line, if it has one (R72). -/
def HostLine.txn (line : HostLine) : Option HostTxn :=
  match line with
  | .wr r v => some (.write r.idx (BitVec.ofNat 64 v))
  | .rd r => some (.read r.idx)
  | .cmd i => some (.write Reg.cmd.idx ((encode i).setWidth 64))
  | .label _ => none
  | .ifGoto _ _ => none

/-- The encoding of a program with no jump taken: the transactions of its lines in order (R72). -/
def encodeLines (prog : List HostLine) : List HostTxn := prog.filterMap HostLine.txn

/-- The host between two cycles: the lines still to run and the value last read from each register, newest first. -/
structure HostAgent where
  rest : List HostLine
  seen : List (Reg × U64)
  deriving DecidableEq, Repr

/-- The value last read from a register, 0 if none was (assumption 12). -/
def HostAgent.lastRead (h : HostAgent) (r : Reg) : U64 :=
  ((h.seen.find? fun p => decide (p.1 = r)).map Prod.snd).getD 0#64

/-- A condition holds of the values last read (R72). -/
def HostAgent.holds (h : HostAgent) (c : HostCond) : Bool := (h.lastRead c.reg).getLsbD c.bit == c.value

/-- The lines after a label, none if the program does not have it. R72 does not say where a `goto` goes when a label
stands twice in a program; DESIGN CHOICE: to the first one in the whole program (assumption 12). -/
def afterLabel (l : String) (prog : List HostLine) : List HostLine :=
  (prog.dropWhile fun line => decide (line ≠ .label l)).tail

/-- The host takes its control flow up to the next line with a transaction. A program of `fuel` lines needs at most
`fuel` such steps unless it loops with no transaction, in which case the host stays where it is. -/
def HostAgent.settle (prog : List HostLine) (fuel : Nat) (h : HostAgent) : HostAgent :=
  match fuel with
  | 0 => h
  | n + 1 =>
    match h.rest with
    | .label _ :: rest => HostAgent.settle prog n { h with rest := rest }
    | .ifGoto c l :: rest =>
      HostAgent.settle prog n { h with rest := if h.holds c then afterLabel l prog else rest }
    | .wr _ _ :: _ => h
    | .rd _ :: _ => h
    | .cmd _ :: _ => h
    | [] => h

/-- The coming cycle with the host's transaction on the bus; with none, the host makes no access (R51). R72 does not say
whether `rst` may be 1 while a program runs. DESIGN CHOICE: it is 0 in every cycle of a program, one with no transaction
too; a given `rst` of 1, and a given host access, are replaced, and `dout` and `now` stay as given (assumption 12). -/
def driveTxn (t : Option HostTxn) (s : State) : State :=
  match t with
  | some (.write idx d) => withHostAccess true false idx d s
  | some (.read idx) => withHostAccess false true idx 0#64 s
  | none => withHostAccess false false 0#4 0#64 s

/-- The host after a cycle: its line is done, and a read is remembered (R72). -/
def HostAgent.take (h : HostAgent) (rdata : U64) : HostAgent :=
  match h.rest with
  | .rd r :: rest => { rest := rest, seen := (r, rdata) :: h.seen }
  | .wr _ _ :: rest => { h with rest := rest }
  | .cmd _ :: rest => { h with rest := rest }
  | .label _ :: _ => h
  | .ifGoto _ _ :: _ => h
  | [] => h

/-- `n` cycles of a host program beside the block: one transaction a cycle, then one edge. No cycle of it is a reset
cycle (DESIGN CHOICE, `driveTxn`, assumption 12). -/
def runHost (prog : List HostLine) (n : Nat) (h : HostAgent) (s : State) :
    HostAgent × Host.Outcome State Fault Refusal :=
  match n with
  | 0 => (h, .next s)
  | k + 1 =>
    let h := h.settle prog prog.length
    match step (driveTxn (h.rest.head?.bind HostLine.txn) s) with
    | .next s' => runHost prog k (h.take s'.rdata) s'
    | .fault r => (h, .fault r)
    | .refused r => (h, .refused r)

end Sys2Proof.Machine
end

