-- ==== Sys2Proof/Safety.lean ====
section
/-! DEFINITION. The terms claims use: the invariant of the block, the outputs and port events of a run, and the duties
the platform and the host owe the block (spec R129, R131, R132). A run stops only with a `Fault` or a `Refusal`, and
from a state with the invariant neither comes. -/

namespace Sys2Proof.Machine

/-! ## The invariant -/

/-- The build is legal (R7), and SYNC has SYNC_STAGES stages (R40). -/
abbrev State.BuildOk (s : State) : Prop := s.build.legal = true ∧ s.sync.length = s.build.syncStages

/-- SETTLE and BACKOFF are at least 1 (R22, R23). -/
abbrev State.DelaysOk (s : State) : Prop := s.settle ≠ 0#32 ∧ s.backoff ≠ 0#32

/-- SCK is 1 only in the HIGH half of a pulse, in CLOCKING or INIT (R130). -/
abbrev State.SckOk (s : State) : Prop :=
  (s.sckQ = true ↔ s.phase = .high) ∧ (s.phase = .high → s.seq = .clocking ∨ s.seq = .init)

/-- OP holds a command whose procedure enters this STATE, and 0 in IDLE (R35, R36, R37). -/
abbrev State.OpOk (s : State) : Prop :=
  (s.seq = .idle → s.op = .nop)
    ∧ (s.seq ≠ .idle → s.op ≠ .nop)
    ∧ (s.seq = .init ∨ s.seq = .delay → s.op = .run)
    ∧ (s.seq = .poll ∨ s.seq = .backoff → readsFrame s.op = true)
    ∧ (s.seq = .clocking → s.op = .pulse ∨ readsFrame s.op = true)
    ∧ (s.seq = .process → s.op ≠ .pulse)

/-- CNT lies within the Wait of this STATE, and is 0 only in IDLE (R38, R137). -/
abbrev State.CntOk (s : State) : Prop :=
  (s.seq = .idle → s.cnt = 0#32)
    ∧ (s.seq ≠ .idle → s.cnt ≠ 0#32)
    ∧ (s.seq = .init ∨ s.seq = .clocking → s.cnt.toNat ≤ s.settle.toNat)
    ∧ (s.seq = .delay → s.cnt.toNat ≤ s.interframe.toNat)
    ∧ (s.seq = .poll → s.cnt = 1#32)
    ∧ (s.seq = .backoff → s.cnt.toNat ≤ s.backoff.toNat)
    ∧ (s.seq = .process → s.cnt.toNat ≤ s.build.calcLatency)

/-- BITCNT counts the samples of the frame, 0 to 25 (R34): at most 24 before the sample of a pulse, at least 1 after
it, and 25 when the frame is processed. -/
abbrev State.BitcntOk (s : State) : Prop :=
  s.bitcnt.toNat ≤ 25
    ∧ (s.seq = .clocking ∧ readsFrame s.op = true ∧ s.phase = .high → s.bitcnt.toNat ≤ 24)
    ∧ (s.seq = .clocking ∧ readsFrame s.op = true ∧ s.phase = .low → 1 ≤ s.bitcnt.toNat)
    ∧ (s.seq = .process ∧ readsFrame s.op = true → s.bitcnt.toNat = 25 ∧ s.dTmp = decodeFrame s.acc)

/-- A wait that goes on has not reached its timeout (R79, R81). -/
abbrev State.PollsOk (s : State) : Prop :=
  s.seq = .poll ∨ s.seq = .backoff → pollsTimedOut s.timeout s.polls = false

/-- RUNNING is 1 exactly while RUN runs (R18, R103, R105). -/
abbrev State.RunningOk (s : State) : Prop := s.running = true ↔ s.op = .run

/-- A running command that needs SCALE has a valid one (R69, R92). -/
abbrev State.ScaleOk (s : State) : Prop := needsScale s.op = true → scaleValid s = true

/-- ERR_CODE is NONE exactly while ERR_P is 0 (R18, R109). -/
abbrev State.ErrOk (s : State) : Prop := s.errP = true ↔ s.errCode ≠ .none

/-- Before the first edge after reset the block is in IDLE (R45, R126). -/
abbrev State.FreshOk (s : State) : Prop := s.fresh = true → s.seq = .idle

/-- In the cycle after a frame's record is committed FRAME_P is 1 (R42, R100, R112). -/
abbrev State.FrameValidOk (s : State) : Prop := s.fvQ = true → s.frameP = true

/-- What holds of every state a run from reset reaches. -/
def State.Inv (s : State) : Prop :=
  s.BuildOk ∧ s.DelaysOk ∧ s.SckOk ∧ s.OpOk ∧ s.CntOk ∧ s.BitcntOk ∧ s.PollsOk ∧ s.RunningOk ∧ s.ScaleOk
    ∧ s.ErrOk ∧ s.FreshOk ∧ s.FrameValidOk

/-! ## Runs -/

/-- No reset comes in the next `n` cycles. -/
def State.noReset (n : Nat) (s : State) : Prop := ∀ i ∈ s.inputs.take n, i.rst = false

/-- The port events of `n` edges in order, with the state after them (R11); none when the block stops. -/
def runEvents (n : Nat) (s : State) : Option (List PinEvent × State) :=
  match n with
  | 0 => some ([], s)
  | k + 1 =>
    match step s with
    | .next t => (runEvents k t).map fun r => (t.pinEvents ++ r.1, r.2)
    | .fault _ => none
    | .refused _ => none

/-- The port events of one pulse whose sample is `b` (R74). -/
def pulseEvents (b : Bit) : List PinEvent := [.write true, .read b, .write false]

/-- The port events of a frame: a ready poll, then one pulse for each of the bits sampled (R79, R82). -/
def frameEvents (bits : List Bit) : List PinEvent := .read false :: bits.flatMap pulseEvents

/-- The 24-bit number of a list of bits, the most significant first (R83). -/
def msbFirst (bits : List Bit) : U24 := bits.foldl accAfter 0#24

/-! ## Numbers -/

/-- A binary64 pattern that is neither an infinity nor a NaN (R21). -/
def f64Finite (x : F64) : Prop := f64Exponent x ≠ 0x7FF

/-- The infinity of a sign (R12). -/
def f64Inf (neg : Bit) : F64 := BitVec.ofNat 64 ((if neg then 2 ^ 63 else 0) + f64InfBits)

/-- `f64(x)`: the exact real value of a finite binary64 pattern, which is rational (R12). -/
def f64Value (x : F64) : ℚ := (if f64Sign x then -1 else 1) * f64Significand x * 2 ^ f64Power x

/-- `r` is `rne64(x)` for a real `x` that is rational (R12): below the overflow threshold no finite binary64 number is
nearer to `x` than `r`, and where another is as near the last fraction bit of `r` is 0; from the threshold on `r` is
the infinity of the sign of `x`. The sign of a zero result is not `rne64`'s to say. -/
def IsRne64 (x : ℚ) (r : F64) : Prop :=
  (|x| < 2 ^ 1024 - 2 ^ 970
      ∧ f64Finite r
      ∧ ∀ y : F64, f64Finite y →
          |x - f64Value r| ≤ |x - f64Value y|
            ∧ (|x - f64Value r| = |x - f64Value y| → f64Value y ≠ f64Value r → r.getLsbD 0 = false))
    ∨ (2 ^ 1024 - 2 ^ 970 ≤ |x| ∧ r = f64Inf (decide (x < 0)))

/-- The order of binary64 numbers, infinities in their places and both zeros equal: sign and magnitude bits read as an
integer. -/
def f64Order (x : F64) : Int :=
  if f64Sign x then -((x.extractLsb' 0 63).toNat : Int) else ((x.extractLsb' 0 63).toNat : Int)

/-! ## Offers -/

/-- In the coming cycle, with `rst` 0, the host writes `w` to CMD (R49). -/
def State.offersWord (w : Word) (s : State) : Prop :=
  (portIn s).rst = false
    ∧ (portIn s).regWr = true
    ∧ Reg.ofIdx (portIn s).regIdx = .cmd
    ∧ (portIn s).regWdata.setWidth 32 = w

/-- The coming edge is not one at which the block offers itself RUN (R126). -/
def State.noSelfOffer (s : State) : Prop := s.fresh = false ∨ s.build.autoRun = false

/-- In the coming cycle the host writes register `r` (R49). -/
def State.hostWrites (r : Reg) (s : State) : Prop := (portIn s).regWr = true ∧ Reg.ofIdx (portIn s).regIdx = r

/-- The host's write in the coming cycle is one that a block in this state rejects with an error: an illegal word, a
command other than NOP while busy or for want of a valid SCALE, a configuration write while busy (R69, R70, R50). -/
def State.hostWriteRaises (s : State) : Prop :=
  (portIn s).regWr = true
    ∧ ((Reg.ofIdx (portIn s).regIdx = .cmd
          ∧ ((∃ r, decodeWord ((portIn s).regWdata.setWidth 32) = .illegal r)
            ∨ ∃ i, decodeWord ((portIn s).regWdata.setWidth 32) = .command i ∧ i ≠ .nop
                ∧ (busy s = true ∨ (i = .calibrate ∨ i = .acquire ∨ i = .run) ∧ f64Valid s.scale = false)))
      ∨ (Reg.ofIdx (portIn s).regIdx).access = .config ∧ busy s = true)

/-- The state with the host's write in the coming cycle taken away and everything else on the ports as it was. -/
def State.withoutWrite (s : State) : State :=
  { s with inputs := { portIn s with regWr := false } :: s.inputs.tail }

/-- The host offers the command `i` at the coming edge, and the block can take it: it is idle, `rst` is 0, and no RUN
of its own comes first (R69, R126). -/
def State.offersCommand (i : Instr) (s : State) : Prop :=
  s.offersWord (encode i) ∧ busy s = false ∧ s.noSelfOffer

/-- The coming edge has `rst` 0 and ends the Wait of a running command, so the command's next action takes effect at
it (R137). -/
def State.acts (s : State) : Prop := (portIn s).rst = false ∧ busy s = true ∧ waitEnds s = true

/-- The coming edge is a failed poll that reaches TIMEOUT (R79, R81). -/
def State.timesOut (s : State) : Prop :=
  s.acts ∧ s.seq = .poll ∧ doutLevel s = true ∧ pollsTimedOut s.timeout (pollsAfter s.polls) = true

/-- The configuration registers of R50 are the same in both states. -/
def sameConfig (s t : State) : Prop :=
  t.offset = s.offset ∧ t.scale = s.scale ∧ t.settle = s.settle ∧ t.backoff = s.backoff
    ∧ t.interframe = s.interframe ∧ t.timeout = s.timeout ∧ t.arg = s.arg

/-- The output record and its companions are the same in both states: RAW, VALUE, RATE, FRAME_COUNT, START_TIME. -/
def sameRecord (s t : State) : Prop :=
  t.raw = s.raw ∧ t.value = s.value ∧ t.rate = s.rate ∧ t.frameCount = s.frameCount ∧ t.startTime = s.startTime

/-- What the frame reader and PULSE collect is the same in both states: ACC, BITCNT, LAST_BIT. -/
def sameSamples (s t : State) : Prop := t.acc = s.acc ∧ t.bitcnt = s.bitcnt ∧ t.lastBit = s.lastBit

/-! ## Duties of the host and the platform -/

/-- SETTLE keeps each pulse within the sensor's window (R131). The block checks only SETTLE ≥ 1. -/
def settleInWindow (s : State) : Prop := 1 ≤ s.settle.toNat ∧ s.settle.toNat ≤ s.build.settleMax

/-- SETTLE covers the synchroniser and the sensor's data delay (R132). The block does not check this. -/
def settleCoversSync (s : State) : Prop := s.build.syncStages + s.build.tDv + 1 ≤ s.settle.toNat

/-- `now` never decreases over the given inputs, and does not run behind START_TIME (R129). The block does not detect
a `now` that does (R95, R110). -/
def nowNeverDecreases (s : State) : Prop :=
  (s.startTime.toNat :: s.inputs.map fun i => i.now.toNat).Pairwise (· ≤ ·)

/-- The duties of R129 that the model can express. No rule of the block rests on them. -/
def duties (s : State) : Prop := settleInWindow s ∧ settleCoversSync s ∧ nowNeverDecreases s

end Sys2Proof.Machine
end

