-- ==== Sys2Proof/Certificates/Slice0/Obligations.lean ====
section
/-! DEFINITION. The statements for the provers. Each docstring names the rules of spec/ a statement formalises or rests
on. `exec i s` is the offer of a command at an edge; a command that lasts several edges goes on through `step`, so its
effect is stated both at its offer and at the edge that commits it. -/

open Sys2Proof Sys2Proof.Machine

/-! ## Encoding -/

/-- R68: each of the eight words 0x00000000 to 0x00000007 decodes to its command, and 0x8 to 0xF are illegal. -/
def Obligations.CommandWordsDecode : Prop :=
  decodeWord 0x00000000#32 = .command .nop
    ∧ decodeWord 0x00000001#32 = .command .pulse
    ∧ decodeWord 0x00000002#32 = .command .readFrame
    ∧ decodeWord 0x00000003#32 = .command .decode
    ∧ decodeWord 0x00000004#32 = .command .calibrate
    ∧ decodeWord 0x00000005#32 = .command .recordRate
    ∧ decodeWord 0x00000006#32 = .command .acquire
    ∧ decodeWord 0x00000007#32 = .command .run
    ∧ ∀ k : Nat, 8 ≤ k → k < 16 → decodeWord (BitVec.ofNat 32 k) = .illegal .unassignedOpcode

/-- R66, R68, R71: decoding and encoding are inverse on all commands and on all 2^32 words. -/
def Obligations.DecodingInvertsEncoding : Prop :=
  (∀ i : Instr, decodeWord (encode i) = .command i)
    ∧ ∀ (w : Word) (i : Instr), decodeWord w = .command i → w = encode i

/-- R70: exactly the words with RSVD ≠ 0, or with OPC in 0x8 to 0xF, are illegal, and offering one raises ILLEGAL_CMD
and does nothing else, in every state, busy or not. -/
def Obligations.IllegalWordsOnlyRaise : Prop :=
  ∀ (w : Word) (s : State),
    (((∃ r, decodeWord w = .illegal r) ↔ w.extractLsb' 4 28 ≠ 0#28 ∨ 8 ≤ (w.extractLsb' 0 4).toNat))
      ∧ (w.extractLsb' 4 28 ≠ 0#28 ∨ 8 ≤ (w.extractLsb' 0 4).toNat →
          offerWord w s = .next (raiseErr .illegalCmd s))

/-! ## Acceptance -/

/-- R21, R69: SCALE is valid when its exponent field is not 0x7FF and bits 62:0 are not all 0; and the decision on a
word written to CMD, in the order of its checks. An accepted command other than NOP leaves IDLE, holds its opcode in OP,
and touches no pending bit and no error code. -/
def Obligations.AcceptanceFollowsTheChecks : Prop :=
  (∀ x : F64, f64Valid x = true ↔ x.extractLsb' 52 11 ≠ 0x7FF#11 ∧ x.extractLsb' 0 63 ≠ 0#63)
    ∧ ∀ (w : Word) (s : State),
    match decodeWord w with
    | .illegal _ => offerWord w s = .next (raiseErr .illegalCmd s)
    | .command i =>
      if i = .nop then offerWord w s = .next s
      else if busy s = true then offerWord w s = .next (raiseErr .busy s)
      else if (i = .calibrate ∨ i = .acquire ∨ i = .run) ∧ f64Valid s.scale = false then
        offerWord w s = .next (raiseErr .cfgScale s)
      else
        ∃ t, offerWord w s = .next t ∧ t.op = i ∧ busy t = true
          ∧ t.doneP = s.doneP ∧ t.frameP = s.frameP ∧ t.errP = s.errP ∧ t.errCode = s.errCode
          ∧ sameConfig s t ∧ sameRecord s t ∧ sameSamples s t

/-- R101: NOP's word is 0; offered in any state, busy or not, it changes nothing, and an edge at which it is written
is the edge without the write. A word with OPC 0 and RSVD ≠ 0 is illegal. -/
def Obligations.NopChangesNothing : Prop :=
  decodeWord 0x00000000#32 = .command .nop
    ∧ (∀ s : State, exec .nop s = .next s)
    ∧ (∀ s : State, s.offersWord 0x00000000#32 → step s = step s.withoutWrite)
    ∧ ∀ w : Word, w.extractLsb' 0 4 = 0#4 → w.extractLsb' 4 28 ≠ 0#28 → ∃ r, decodeWord w = .illegal r

/-- R78, R74, R69: PULSE offered in IDLE begins its pulse at that edge: CLOCKING, PHASE HIGH, SCK rises, Wait(SETTLE);
nothing else changes, whatever SCALE holds. -/
def Obligations.PulseStartsAtTheOffer : Prop :=
  ∀ s : State, busy s = false →
    exec .pulse s = .next
      { s with
        op := .pulse, seq := .clocking, phase := .high, sckQ := true, cnt := s.settle
        pinEvents := s.pinEvents ++ [.write true] }

/-- R88, R102, R79, R69: READ_FRAME and ACQUIRE offered in IDLE begin the wait for data ready at that edge, ACQUIRE
only with a valid SCALE; nothing else changes. -/
def Obligations.FrameCommandsStartWaiting : Prop :=
  ∀ s : State, busy s = false →
    exec .readFrame s = .next { s with op := .readFrame, seq := .poll, polls := 0#32, cnt := 1#32 }
      ∧ (f64Valid s.scale = true →
          exec .acquire s = .next { s with op := .acquire, seq := .poll, polls := 0#32, cnt := 1#32 })
      ∧ (f64Valid s.scale = false → exec .acquire s = .next (raiseErr .cfgScale s))

/-- R89, R97, R98, R69: DECODE, CALIBRATE and RECORD_RATE offered in IDLE enter PROCESS for CALC_LATENCY cycles,
CALIBRATE only with a valid SCALE; nothing else changes. -/
def Obligations.ProcessCommandsEnterProcess : Prop :=
  ∀ s : State, busy s = false →
    exec .decode s
        = .next { s with op := .decode, seq := .process, cnt := BitVec.ofNat 32 s.build.calcLatency }
      ∧ exec .recordRate s
        = .next { s with op := .recordRate, seq := .process, cnt := BitVec.ofNat 32 s.build.calcLatency }
      ∧ (f64Valid s.scale = true →
          exec .calibrate s
            = .next { s with op := .calibrate, seq := .process, cnt := BitVec.ofNat 32 s.build.calcLatency })
      ∧ (f64Valid s.scale = false → exec .calibrate s = .next (raiseErr .cfgScale s))

/-- R103, R76, R69: RUN offered in IDLE with a valid SCALE sets RUNNING and begins the idle pulse; nothing else
changes. With an invalid SCALE it raises CFG_SCALE. -/
def Obligations.RunStartsWithTheIdlePulse : Prop :=
  ∀ s : State, busy s = false →
    (f64Valid s.scale = true →
        exec .run s = .next
          { s with
            op := .run, running := true, seq := .init, phase := .high, sckQ := true, cnt := s.settle
            pinEvents := s.pinEvents ++ [.write true] })
      ∧ (f64Valid s.scale = false → exec .run s = .next (raiseErr .cfgScale s))

/-- R69, R126: when the host writes a word that decodes to `i`, the step is `exec i`, after the block's own offer of RUN
where there is one, inside the edge's own work (the outputs of the last edge forgotten first; SYNC shifted, the read
delivered and the cycle's input used up last). THE MODEL'S CHOICE (log 6, DEDUCED): the host's offer comes before the
actions of a command that was running, while R61 says that the two take effect together. -/
def Obligations.StepRunsTheOfferedCommand : Prop :=
  ∀ (s : State) (w : Word) (i : Instr), s.offersWord w → decodeWord w = .command i →
    step s
        = andThen (selfOffer s.fresh (beginEdge s)) (fun s1 =>
            andThen (exec i s1) (fun s2 =>
              andThen (sequencerPart (busy s) s2) (fun s3 => .next (finishEdge (regRdata s) s3))))
      ∧ (busy s = false → s.noSelfOffer →
          step s = andThen (exec i (beginEdge s)) (fun s2 => .next (finishEdge (regRdata s) s2)))

/-- R116, R69, R70, R50, R109: a command word or configuration write that is rejected, as illegal, as busy or for an
invalid SCALE, changes nothing but ERR_P and ERR_CODE: the edge is the edge without the write, with the error recorded,
and a running command continues unchanged. `edgeErr` is the model's note of the same error. -/
def Obligations.RejectedWriteOnlyRecordsError : Prop :=
  ∀ (s t : State) (c : ErrCode),
    (portIn s).rst = false → (portIn s).regWr = true → s.noSelfOffer →
    ((Reg.ofIdx (portIn s).regIdx = .cmd
          ∧ ((∃ r, decodeWord ((portIn s).regWdata.setWidth 32) = .illegal r) ∧ c = .illegalCmd
            ∨ (∃ i, decodeWord ((portIn s).regWdata.setWidth 32) = .command i ∧ i ≠ .nop)
              ∧ busy s = true ∧ c = .busy
            ∨ (∃ i, decodeWord ((portIn s).regWdata.setWidth 32) = .command i
                ∧ (i = .calibrate ∨ i = .acquire ∨ i = .run))
              ∧ busy s = false ∧ f64Valid s.scale = false ∧ c = .cfgScale))
        ∨ ((Reg.ofIdx (portIn s).regIdx).access = .config ∧ busy s = true ∧ c = .busy)) →
    step s.withoutWrite = .next t →
    step s = .next { t with errP := true, errCode := c, edgeErr := some c }

/-! ## Errors, STATUS and the interrupt -/

/-- R109: `raise Err(c)` sets ERR_P to 1 and ERR_CODE to c and changes nothing else, except that of two errors at one
edge the lower code is recorded; a STATUS write with bit 10 set clears both unless an error is raised at that edge. -/
def Obligations.RaisingRecordsTheLowerCode : Prop :=
  (∀ (c : ErrCode) (s : State), s.edgeErr = none →
      raiseErr c s = { s with errP := true, errCode := c, edgeErr := some c })
    ∧ (∀ (c d : ErrCode) (s : State), s.edgeErr = some d →
        (raiseErr c s).errP = true
          ∧ (raiseErr c s).errCode.code.toNat = min c.code.toNat d.code.toNat
          ∧ ((raiseErr c s).errCode = c ∨ (raiseErr c s).errCode = d))
    ∧ ∀ (v : Word) (s : State), v.getLsbD 10 = true →
        (s.edgeErr = none → (clearPending v s).errP = false ∧ (clearPending v s).errCode = .none)
          ∧ (s.edgeErr ≠ none →
              (clearPending v s).errP = s.errP ∧ (clearPending v s).errCode = s.errCode)

/-- R109, R115: RUN's READY_TIMEOUT meets a host error at one edge: the host's lower code is recorded, and RUN goes on
to its next wait or DELAY. -/
def Obligations.TimeoutMeetsBusyError : Prop :=
  ∀ (s : State) (w : Word) (i : Instr), s.Inv → s.acts → s.op = .run → s.seq = .poll → doutLevel s = true →
    pollsTimedOut s.timeout (pollsAfter s.polls) = true →
    s.offersWord w → decodeWord w = .command i → i ≠ .nop →
    ∃ t, step s = .next t ∧ t.errP = true ∧ t.errCode = .busy ∧ t.op = .run
      ∧ (t.seq = .delay ∨ t.seq = .poll) ∧ sameRecord s t ∧ t.doneP = s.doneP

/-- R35, R108, R18: the numbers of STATE and of the error codes; the fields of STATUS by their bits, BUSY equal to
STATE ≠ 0, and every reserved bit 0. -/
def Obligations.StatusFieldsStandInPlace : Prop :=
  (SeqState.idle.code = 0#3 ∧ SeqState.init.code = 1#3 ∧ SeqState.delay.code = 2#3 ∧ SeqState.poll.code = 3#3
      ∧ SeqState.backoff.code = 4#3 ∧ SeqState.clocking.code = 5#3 ∧ SeqState.process.code = 6#3)
    ∧ (ErrCode.none.code = 0#3 ∧ ErrCode.illegalCmd.code = 1#3 ∧ ErrCode.busy.code = 2#3
      ∧ ErrCode.cfgScale.code = 3#3 ∧ ErrCode.readyTimeout.code = 4#3)
    ∧ ∀ s : State,
    (statusWord s).getLsbD 0 = decide (s.seq.code ≠ 0#3)
      ∧ (statusWord s).extractLsb' 1 3 = s.seq.code
      ∧ (statusWord s).getLsbD 4 = s.running
      ∧ (statusWord s).getLsbD 5 = s.lastBit
      ∧ (statusWord s).getLsbD 6 = s.sckQ
      ∧ (statusWord s).getLsbD 7 = false
      ∧ (statusWord s).getLsbD 8 = s.doneP
      ∧ (statusWord s).getLsbD 9 = s.frameP
      ∧ (statusWord s).getLsbD 10 = s.errP
      ∧ (statusWord s).getLsbD 11 = false
      ∧ (statusWord s).extractLsb' 12 3 = s.errCode.code
      ∧ (statusWord s).getLsbD 15 = false
      ∧ (statusWord s).extractLsb' 16 5 = s.bitcnt
      ∧ (statusWord s).extractLsb' 21 11 = 0#11

/-- R18, R109: a host write of `v` to STATUS at an edge with no error, seen in STATUS itself: the pending bits set in
`v` become 0, ERR_CODE with ERR_P, and every other bit stays. -/
def Obligations.StatusWriteClearsOnlyItsBits : Prop :=
  ∀ (s : State) (v : Word), s.edgeErr = none →
    statusWord (clearPending v s)
      = statusWord s &&& ~~~((v &&& 0x700#32) ||| (if v.getLsbD 10 then 0x7000#32 else 0#32))

/-- R112: a pending bit the block sets at an edge at which a host write to STATUS clears it is 1 after the edge, and
ERR_CODE then holds the new code. The edge without the write, begun with the bits at 0, says which bits the block
sets. -/
def Obligations.SetBeatsClear : Prop :=
  ∀ s t u : State, (portIn s).rst = false → (portIn s).regWr = true → Reg.ofIdx (portIn s).regIdx = .status →
    step s = .next t → step { s.withoutWrite with doneP := false, frameP := false } = .next u →
    (u.doneP = true → t.doneP = true)
      ∧ (u.frameP = true → t.frameP = true)
      ∧ (u.edgeErr ≠ none → t.errP = true ∧ some t.errCode = u.edgeErr)

/-- R113: `irq` is 1 exactly when a bit of STATUS[10:8] and its enable in CTRL[2:0] are both 1; it is 0 after reset;
a host write to STATUS clears a pending bit, and writing CTRL leaves all of them as they are. -/
def Obligations.IrqIsEnabledPending : Prop :=
  (∀ s : State, irq s = decide ((statusWord s >>> 8) &&& ctrlWord s &&& 7#32 ≠ 0#32))
    ∧ (∀ (b : Build) (now : U64) (ins : List EdgeIn) (n : Nat), irq (State.afterReset b now ins n) = false)
    ∧ (∀ (d : U64) (s : State), regWrite .ctrl d s = .next { s with ctrl := d.setWidth 3 })
    ∧ ∀ (d : U64) (s : State), ∃ t, regWrite .status d s = .next t
        ∧ (t.doneP = true ↔ s.doneP = true ∧ d.getLsbD 8 = false)
        ∧ (t.frameP = true ↔ s.frameP = true ∧ d.getLsbD 9 = false)
        ∧ (s.edgeErr = none → (t.errP = true ↔ s.errP = true ∧ d.getLsbD 10 = false))

/-- R111: DONE_P is 1 after every edge at which a command returns to IDLE, by completing or by timing out, and from 0
it becomes 1 at no other edge with `rst` 0; so NOP and rejected commands never set it, and neither does RUN. -/
def Obligations.DoneMarksTheReturnToIdle : Prop :=
  ∀ s t : State, (portIn s).rst = false → step s = .next t →
    (busy s = true → busy t = false → t.doneP = true)
      ∧ (s.doneP = false → t.doneP = true → busy s = true ∧ busy t = false)
      ∧ (s.Inv → s.op = .run → t.doneP = true → s.doneP = true)

/-! ## The host register space -/

/-- R47, R48, R51, R125: in every cycle, `rst` 1 or 0, `reg_rdata` is the value the addressed register holds in it, and
0 without a read. An edge with a host read, alone or with a host write in the same cycle, is the edge without the read
but for the value the host takes, which is the register's value before the edge and so before the write (what the write
does at the edge is in ConfigWritesObeyTheLock, FlagsChangeOnlyByTheirWriters and StepRunsTheOfferedCommand). An edge
with `rst` 1 is the same with the read and without it; that the model's field `rdata` is 0 after it either way is the
model's own (DESIGN CHOICE, log 10). -/
def Obligations.HostReadHasNoSideEffect : Prop :=
  (∀ s : State, regRdata s = if (portIn s).regRd then regRead (Reg.ofIdx (portIn s).regIdx) s else 0#64)
    ∧ (∀ (s t : State) (wr : Bit) (idx : BitVec 4) (data : U64),
        step (withHostAccess wr true idx data s) = .next t →
          t.rdata = regRead (Reg.ofIdx idx) s
            ∧ step (withHostAccess wr false idx data s) = .next { t with rdata := 0#64 })
    ∧ ∀ (s : State) (rd : Bit), (portIn s).rst = true →
        step { s with inputs := { portIn s with regRd := rd } :: s.inputs.tail } = step s

/-- R16, R17, R47: the index, width and access of each register are those of R16's table, each index names one register,
and the host reads each register as the value it holds, zero-extended to the bus, and CMD as 0. -/
def Obligations.RegisterMapIsFull : Prop :=
  (Reg.cmd.idx = 0x0#4 ∧ Reg.cmd.width = 32 ∧ Reg.cmd.access = .writeOnly)
    ∧ (Reg.status.idx = 0x1#4 ∧ Reg.status.width = 32 ∧ Reg.status.access = .statusBits)
    ∧ (Reg.ctrl.idx = 0x2#4 ∧ Reg.ctrl.width = 32 ∧ Reg.ctrl.access = .always)
    ∧ (Reg.offset.idx = 0x3#4 ∧ Reg.offset.width = 32 ∧ Reg.offset.access = .config)
    ∧ (Reg.scale.idx = 0x4#4 ∧ Reg.scale.width = 64 ∧ Reg.scale.access = .config)
    ∧ (Reg.settle.idx = 0x5#4 ∧ Reg.settle.width = 32 ∧ Reg.settle.access = .config)
    ∧ (Reg.backoff.idx = 0x6#4 ∧ Reg.backoff.width = 32 ∧ Reg.backoff.access = .config)
    ∧ (Reg.interframe.idx = 0x7#4 ∧ Reg.interframe.width = 32 ∧ Reg.interframe.access = .config)
    ∧ (Reg.timeout.idx = 0x8#4 ∧ Reg.timeout.width = 32 ∧ Reg.timeout.access = .config)
    ∧ (Reg.arg.idx = 0x9#4 ∧ Reg.arg.width = 24 ∧ Reg.arg.access = .config)
    ∧ (Reg.acc.idx = 0xA#4 ∧ Reg.acc.width = 24 ∧ Reg.acc.access = .readOnly)
    ∧ (Reg.raw.idx = 0xB#4 ∧ Reg.raw.width = 24 ∧ Reg.raw.access = .readOnly)
    ∧ (Reg.value.idx = 0xC#4 ∧ Reg.value.width = 64 ∧ Reg.value.access = .readOnly)
    ∧ (Reg.rate.idx = 0xD#4 ∧ Reg.rate.width = 64 ∧ Reg.rate.access = .readOnly)
    ∧ (Reg.frameCount.idx = 0xE#4 ∧ Reg.frameCount.width = 64 ∧ Reg.frameCount.access = .readOnly)
    ∧ (Reg.startTime.idx = 0xF#4 ∧ Reg.startTime.width = 64 ∧ Reg.startTime.access = .readOnly)
    ∧ (∀ i : BitVec 4, (Reg.ofIdx i).idx = i)
    ∧ (∀ r : Reg, Reg.ofIdx r.idx = r)
    ∧ ∀ s : State,
        regRead .cmd s = 0#64
          ∧ regRead .status s = (statusWord s).setWidth 64 ∧ regRead .ctrl s = (ctrlWord s).setWidth 64
          ∧ regRead .offset s = s.offset.setWidth 64 ∧ regRead .scale s = s.scale
          ∧ regRead .settle s = s.settle.setWidth 64 ∧ regRead .backoff s = s.backoff.setWidth 64
          ∧ regRead .interframe s = s.interframe.setWidth 64 ∧ regRead .timeout s = s.timeout.setWidth 64
          ∧ regRead .arg s = s.arg.setWidth 64 ∧ regRead .acc s = s.acc.setWidth 64
          ∧ regRead .raw s = s.raw.setWidth 64 ∧ regRead .value s = s.value ∧ regRead .rate s = s.rate
          ∧ regRead .frameCount s = s.frameCount ∧ regRead .startTime s = s.startTime
          ∧ ctrlWord s = s.ctrl.setWidth 32
          ∧ ∀ r : Reg, (regRead r s).toNat < 2 ^ r.width

/-- R50, R49, R51, R22, R23, R26: a write to a configuration register, by register: stored when the block is not busy,
SETTLE and BACKOFF as 1 for 0, ARG as its low 24 bits, with no other effect; ignored with BUSY when it is. And the
host's write in a cycle takes effect at the edge that ends it: the edge of an idle block, which makes no offer of its
own (log 8), is `regWrite` of the written register, inside the edge's own work. -/
def Obligations.ConfigWritesObeyTheLock : Prop :=
  (∀ s : State, (portIn s).rst = false → (portIn s).regWr = true → busy s = false → s.noSelfOffer →
      step s
        = andThen (regWrite (Reg.ofIdx (portIn s).regIdx) (portIn s).regWdata (beginEdge s))
            (fun u => .next (finishEdge (regRdata s) u)))
    ∧ ∀ (s : State) (d : U64),
    (busy s = false →
        regWrite .offset d s = .next { s with offset := d.setWidth 32 }
          ∧ regWrite .scale d s = .next { s with scale := d }
          ∧ regWrite .settle d s
              = .next { s with settle := if d.setWidth 32 = 0#32 then 1#32 else d.setWidth 32 }
          ∧ regWrite .backoff d s
              = .next { s with backoff := if d.setWidth 32 = 0#32 then 1#32 else d.setWidth 32 }
          ∧ regWrite .interframe d s = .next { s with interframe := d.setWidth 32 }
          ∧ regWrite .timeout d s = .next { s with timeout := d.setWidth 32 }
          ∧ regWrite .arg d s = .next { s with arg := d.setWidth 24 })
      ∧ (busy s = true → ∀ r : Reg, r.access = .config → regWrite r d s = .next (raiseErr .busy s))

/-- R20 to R26, R49: a register written while the block is idle reads back as the written value cut to its width (1 for
a SETTLE or BACKOFF of 0), and every other register reads as before. -/
def Obligations.ConfigWriteReadsBack : Prop :=
  ∀ (s t : State) (r : Reg) (d : U64), r.access = .config → busy s = false → regWrite r d s = .next t →
    (regRead r t).toNat
        = (if (r = .settle ∨ r = .backoff) ∧ d.toNat % 2 ^ 32 = 0 then 1 else d.toNat % 2 ^ r.width)
      ∧ ∀ q : Reg, q ≠ r → regRead q t = regRead q s

/-- R49, R19: writes to the read-only registers are ignored with no error; CTRL stores bits 2:0 at any time. -/
def Obligations.ReadOnlyWritesAreIgnored : Prop :=
  ∀ (s : State) (d : U64),
    (∀ r : Reg, r.access = .readOnly → regWrite r d s = .next s)
      ∧ regWrite .ctrl d s = .next { s with ctrl := d.setWidth 3 }

/-- R50: at an edge with `rst` 0 at which the block was busy, no configuration register changes, whatever the host
writes. -/
def Obligations.ConfigFixedWhileBusy : Prop :=
  ∀ s t : State, (portIn s).rst = false → busy s = true → step s = .next t → sameConfig s t

/-- R27 to R32, R34, R18, R33, R78, R82: at an edge with `rst` 0, each read-only register changes only where its rule
names a writer, and the build never changes. ACC and BITCNT change only at a poll that reads LOW and at the sample edges
of a frame's pulses, LAST_BIT only at the end of PULSE's low half. -/
def Obligations.RegistersChangeOnlyByTheirWriters : Prop :=
  ∀ s t : State, (portIn s).rst = false → step s = .next t →
    (t.raw ≠ s.raw →
        s.acts ∧ s.seq = .process ∧ (s.op = .readFrame ∨ s.op = .decode ∨ s.op = .acquire ∨ s.op = .run))
      ∧ (t.value ≠ s.value →
          s.acts ∧ s.seq = .process ∧ (s.op = .calibrate ∨ s.op = .acquire ∨ s.op = .run))
      ∧ (t.rate ≠ s.rate ∨ t.frameCount ≠ s.frameCount →
          s.acts ∧ s.seq = .process ∧ (s.op = .recordRate ∨ s.op = .acquire ∨ s.op = .run)
            ∧ t.frameCount = s.frameCount + 1#64)
      ∧ (t.acc ≠ s.acc ∨ t.bitcnt ≠ s.bitcnt →
          s.acts
            ∧ (s.seq = .poll ∧ doutLevel s = false
              ∨ s.seq = .clocking ∧ readsFrame s.op = true ∧ s.phase = .high))
      ∧ (t.lastBit ≠ s.lastBit → s.acts ∧ s.seq = .clocking ∧ s.op = .pulse ∧ s.phase = .low)
      ∧ t.startTime = s.startTime
      ∧ t.build = s.build

/-- R43, R19, R33, R35, R50, R55, R111, R100, R103, R109, R112: at an edge with `rst` 0, in every state, CTRL, the
configuration, BUSY and STATE, SCK, DONE_P, FRAME_P, RUNNING, ERR_P and ERR_CODE change only as their writers say
(LAST_BIT and BITCNT: RegistersChangeOnlyByTheirWriters). CTRL is what the host writes to it, and else as before. A
configuration register changes only where the host writes one to the idle block. STATE, and BUSY with it, and SCK change
only where the Wait of a running command ends, or where the idle block is offered a command other than NOP, by the host
or by itself; SCK only by a PinWrite of its new level at that edge. DONE_P and FRAME_P are 1 after the edge exactly
where it completed a command, or committed a frame's record, or they were 1 and the host did not clear them. RUNNING
changes only to 1, where RUN is accepted. ERR_P and ERR_CODE change only at the block's own offer after reset, at a poll
that times out, at a host write that raises an error, and at a host write to STATUS with bit 10 set. The model's own bit
`fresh` tells the edge of the own offer (log 8), and its field `pinEvents` notes the port events (log 5). -/
def Obligations.FlagsChangeOnlyByTheirWriters : Prop :=
  ∀ s t : State, (portIn s).rst = false → step s = .next t →
    (s.hostWrites .ctrl → t.ctrl = (portIn s).regWdata.setWidth 3)
      ∧ (¬ s.hostWrites .ctrl → t.ctrl = s.ctrl)
      ∧ (¬ sameConfig s t →
          busy s = false ∧ (portIn s).regWr = true ∧ (Reg.ofIdx (portIn s).regIdx).access = .config)
      ∧ (t.seq ≠ s.seq ∨ t.sckQ ≠ s.sckQ →
          s.acts
            ∨ busy s = false
              ∧ (s.fresh = true ∧ s.build.autoRun = true
                ∨ ∃ w i, s.offersWord w ∧ decodeWord w = .command i ∧ i ≠ .nop))
      ∧ (t.sckQ ≠ s.sckQ → .write t.sckQ ∈ t.pinEvents)
      ∧ (t.doneP = true ↔
          busy s = true ∧ busy t = false
            ∨ s.doneP = true ∧ ¬ (s.hostWrites .status ∧ (portIn s).regWdata.getLsbD 8 = true))
      ∧ (t.frameP = true ↔
          s.acts ∧ s.seq = .process ∧ (s.op = .acquire ∨ s.op = .run)
            ∨ s.frameP = true ∧ ¬ (s.hostWrites .status ∧ (portIn s).regWdata.getLsbD 9 = true))
      ∧ (t.running ≠ s.running → busy s = false ∧ t.running = true ∧ t.op = .run ∧ t.seq = .init)
      ∧ (t.errP ≠ s.errP ∨ t.errCode ≠ s.errCode →
          s.fresh = true ∧ s.build.autoRun = true ∨ s.timesOut ∨ s.hostWriteRaises
            ∨ s.hostWrites .status ∧ (portIn s).regWdata.getLsbD 10 = true)

/-- R35, R61, R126: an idle block to which the host writes nothing, and which makes no offer of its own, stays as it
is: only `frame_valid` falls, SYNC shifts, the host's read is delivered, and the model's own notes of the edge are
renewed. -/
def Obligations.IdleBlockStaysIdle : Prop :=
  ∀ s : State, (portIn s).rst = false → (portIn s).regWr = false → busy s = false → s.noSelfOffer →
    step s = .next
      { s with
        fvQ := false
        sync := shiftSync s.sync (portIn s).dout
        rdata := if (portIn s).regRd then regRead (Reg.ofIdx (portIn s).regIdx) s else 0#64
        fresh := false, pinEvents := [], edgeErr := none, inputs := s.inputs.tail, edges := s.edges + 1 }

/-! ## Reset -/

/-- R45, R125, R32, R7: an edge with `rst` 1 gives every piece of state its reset value, START_TIME the `now` of that
edge, whatever the host writes at it, and leaves the build. THE MODEL'S OWN: its bit `fresh` (log 8, DEDUCED), which
says that the coming edge is the first with `rst` 0 if its `rst` is 0, is 1 after it, and 0 after every edge with `rst`
0; its field `rdata` is 0 (log 10). -/
def Obligations.ResetEdgeGivesResetValues : Prop :=
  (∀ s t : State, (portIn s).rst = false → step s = .next t → t.fresh = false)
    ∧ ∀ s : State, (portIn s).rst = true →
    ∃ t, step s = .next t
      ∧ t.sckQ = false ∧ statusWord t = 0#32 ∧ t.ctrl = 0#3
      ∧ t.offset = s.build.offsetRst ∧ t.scale = s.build.scaleRst ∧ t.settle = s.build.settleRst
      ∧ t.backoff = s.build.backoffRst ∧ t.interframe = s.build.interframeRst ∧ t.timeout = s.build.timeoutRst
      ∧ t.arg = 0#24 ∧ t.acc = 0#24 ∧ t.raw = 0#24 ∧ t.dTmp = 0#24
      ∧ t.value = 0#64 ∧ t.rate = 0#64 ∧ t.frameCount = 0#64
      ∧ t.startTime = (portIn s).now
      ∧ opBits t = 0#4 ∧ t.phase = .low ∧ t.cnt = 0#32 ∧ t.polls = 0#32
      ∧ t.sync = List.replicate s.build.syncStages true
      ∧ t.fvQ = false ∧ irq t = false ∧ t.rdata = 0#64
      ∧ t.fresh = true ∧ t.build = s.build

/-- R126: the first edge with `rst` 0, which the model's bit `fresh` tells (log 8; ResetEdgeGivesResetValues). With
AUTO_RUN 0 and no host write the block stays in IDLE. With AUTO_RUN 1 it offers itself RUN: accepted with a valid SCALE
(INIT, RUNNING, SCK rises), else CFG_SCALE and IDLE. A host write at that edge is judged after it: if RUN was accepted,
a command other than NOP and a configuration write raise BUSY; if not, the write acts on the state RUN's rejection
left. -/
def Obligations.AutoRunOffersRunAfterReset : Prop :=
  ∀ s : State, s.fresh = true → s.seq = .idle → (portIn s).rst = false →
    (s.build.autoRun = false → (portIn s).regWr = false →
        ∃ t, step s = .next t ∧ t.seq = .idle ∧ t.errP = s.errP ∧ t.running = s.running)
      ∧ (s.build.autoRun = true → f64Valid s.scale = true →
          ∃ t, step s = .next t ∧ t.seq = .init ∧ t.op = .run ∧ t.running = true ∧ t.sckQ = true
            ∧ t.phase = .high ∧ t.cnt = s.settle ∧ sameConfig s t
            ∧ ((portIn s).regWr = true →
                ((Reg.ofIdx (portIn s).regIdx = .cmd
                      ∧ ∃ i, decodeWord ((portIn s).regWdata.setWidth 32) = .command i ∧ i ≠ .nop)
                    ∨ (Reg.ofIdx (portIn s).regIdx).access = .config) →
                t.errP = true ∧ t.errCode = .busy))
      ∧ (s.build.autoRun = true → f64Valid s.scale = false →
          ((portIn s).regWr = false →
              ∃ t, step s = .next t ∧ t.seq = .idle ∧ t.errP = true ∧ t.errCode = .cfgScale)
            ∧ step s = andThen (hostPart (raiseErr .cfgScale (beginEdge s)))
                (fun u => .next (finishEdge (regRdata s) u)))

/-! ## The invariant -/

/-- R45: the state a reset edge leaves has the invariant, for every legal build and every environment; so has the
model's own reset state, whose OPEN parameters are free. -/
def Obligations.ResetHasTheInvariant : Prop :=
  (∀ (b : Build) (now : U64) (ins : List EdgeIn) (n : Nat), b.legal = true → (State.afterReset b now ins n).Inv)
    ∧ State.reset.Inv

/-- R37, R130 and the rules each clause of the invariant cites: every step keeps it. -/
def Obligations.StepKeepsTheInvariant : Prop :=
  ∀ s t : State, s.Inv → step s = .next t → t.Inv

/-- R107, R59, 93 U17: the block never halts: from a state with the invariant every step answers a next state. -/
def Obligations.InvariantNeverStops : Prop :=
  ∀ s : State, s.Inv → ∃ t, step s = .next t

/-- R130, which the spec derives, with R74, R76 and R45: in every state a run from reset reaches, over every legal build
and every input, SCK is 1 only in the HIGH half of a pulse in CLOCKING or INIT, and it is 1 there. -/
def Obligations.SckIsHighOnlyInAPulse : Prop :=
  ∀ (b : Build) (now : U64) (ins : List EdgeIn) (n : Nat) (s : State), b.legal = true →
    Host.Core.run Sys2Proof.core n (State.afterReset b now ins 1) = .next s →
    (s.sckQ = true ↔ (s.seq = .clocking ∨ s.seq = .init) ∧ s.phase = .high)
      ∧ (s.seq = .idle ∨ s.seq = .delay ∨ s.seq = .poll ∨ s.seq = .backoff ∨ s.seq = .process → s.sckQ = false)

/-! ## Waits, polls and pulses -/

/-- R137: while a Wait runs, CNT counts down by one an edge and STATE keeps its value, as do PHASE, OP and every data
register, whatever the host does without reset; no port event is made. -/
def Obligations.WaitCountsDown : Prop :=
  ∀ (s : State) (k : Nat), busy s = true → k < s.cnt.toNat → s.noReset k →
    ∃ t, runEvents k s = some ([], t)
      ∧ t.cnt.toNat = s.cnt.toNat - k ∧ t.seq = s.seq ∧ t.op = s.op ∧ t.phase = s.phase ∧ t.sckQ = s.sckQ
      ∧ t.polls = s.polls ∧ t.dTmp = s.dTmp ∧ t.running = s.running
      ∧ sameConfig s t ∧ sameRecord s t ∧ sameSamples s t

/-- R79: a poll that reads LOW starts clocking at that edge: ACC and BITCNT cleared, SCK rises, Wait(SETTLE). -/
def Obligations.ReadyPollStartsClocking : Prop :=
  ∀ s : State, s.Inv → s.acts → s.seq = .poll → doutLevel s = false →
    ∃ t, step s = .next t
      ∧ t.seq = .clocking ∧ t.op = s.op ∧ t.acc = 0#24 ∧ t.bitcnt = 0#5 ∧ t.phase = .high ∧ t.sckQ = true
      ∧ t.cnt = s.settle ∧ t.pinEvents = [.read false, .write true]
      ∧ t.lastBit = s.lastBit ∧ sameRecord s t ∧ sameConfig s t

/-- R79, R81, R88, R102, R104: a poll that reads HIGH counts one failed poll, saturating. If TIMEOUT is not 0 and is
reached, READ_FRAME and ACQUIRE record READY_TIMEOUT, set DONE_P and return to IDLE, and RUN records it and goes to
DELAY, or straight to the next wait with POLLS 0 when INTERFRAME is 0; no record and no sample register changes. Else
the block backs off for BACKOFF cycles. The host makes no write at that edge. -/
def Obligations.FailedPollBacksOffOrTimesOut : Prop :=
  ∀ s : State, s.Inv → s.acts → s.seq = .poll → doutLevel s = true → (portIn s).regWr = false →
    ∃ t, step s = .next t
      ∧ t.pinEvents = [.read true] ∧ sameRecord s t ∧ sameSamples s t ∧ sameConfig s t ∧ t.sckQ = false
      ∧ (if s.timeout ≠ 0#32 ∧ s.timeout.toNat ≤ min (s.polls.toNat + 1) (2 ^ 32 - 1) then
          t.errP = true ∧ t.errCode = .readyTimeout
            ∧ (s.op = .readFrame ∨ s.op = .acquire → t.seq = .idle ∧ t.op = .nop ∧ t.doneP = true)
            ∧ (s.op = .run →
                t.op = .run ∧ t.doneP = s.doneP
                  ∧ (if s.interframe = 0#32 then t.seq = .poll ∧ t.polls = 0#32 ∧ t.cnt = 1#32
                      else t.seq = .delay ∧ t.cnt = s.interframe))
        else
          t.seq = .backoff ∧ t.cnt = s.backoff ∧ t.op = s.op ∧ t.errP = s.errP ∧ t.errCode = s.errCode
            ∧ t.polls.toNat = min (s.polls.toNat + 1) (2 ^ 32 - 1))

/-- R81, R138, R80: with TIMEOUT = N ≥ 1 and a data line that reads HIGH at every poll, READ_FRAME or ACQUIRE, from the
first cycle of its wait, makes exactly N polls and no pin write, and ends after N + (N - 1)·BACKOFF edges with
READY_TIMEOUT recorded, DONE_P set and no record, sample or configuration register changed. The host makes no write
meanwhile. -/
def Obligations.TimeoutAfterNFailedPolls : Prop :=
  ∀ (s : State) (n : Nat), s.Inv → s.seq = .poll → s.polls = 0#32 → s.op = .readFrame ∨ s.op = .acquire →
    s.timeout ≠ 0#32 → n = s.timeout.toNat + (s.timeout.toNat - 1) * s.backoff.toNat →
    n ≤ s.inputs.length →
    (∀ i ∈ s.inputs.take n, i.rst = false ∧ i.regWr = false ∧ i.dout = true) → (∀ b ∈ s.sync, b = true) →
    ∃ t, runEvents n s = some (List.replicate s.timeout.toNat (.read true), t)
      ∧ t.seq = .idle ∧ t.op = .nop ∧ t.doneP = true ∧ t.errP = true ∧ t.errCode = .readyTimeout
      ∧ sameRecord s t ∧ sameSamples s t ∧ sameConfig s t

/-- R80, R99, R124: from a state of Waiting (DELAY, POLL, BACKOFF, PROCESS) no pin is written, except that a poll that
reads LOW raises SCK as it enters CLOCKING; the first edge of clocking is the only way out of Waiting to a pulse. -/
def Obligations.WaitingNeverPulses : Prop :=
  ∀ (s t : State) (b : Bit), (portIn s).rst = false →
    (s.seq = .delay ∨ s.seq = .poll ∨ s.seq = .backoff ∨ s.seq = .process) → step s = .next t →
    (.write b ∈ t.pinEvents ↔ b = true ∧ s.seq = .poll ∧ waitEnds s = true ∧ doutLevel s = false)
      ∧ (t.seq = .clocking ↔ s.seq = .poll ∧ waitEnds s = true ∧ doutLevel s = false)

/-- R74, R78, R137, R138: PULSE offered to the idle block takes 2·SETTLE cycles. SCK is 1 for SETTLE cycles from the
accepting edge on; the sample and then the fall come at the edge that ends them; SCK is 0 for SETTLE cycles, LAST_BIT
still old; then LAST_BIT is the sampled bit, the block is IDLE and DONE_P is 1. Its port events are a write, a read and
a write. ACC, BITCNT, the record and the configuration stay, whatever the host does after the offer without reset. -/
def Obligations.PulseWaveform : Prop :=
  ∀ s : State, s.Inv → s.offersCommand .pulse → s.noReset (1 + 2 * s.settle.toNat) →
    ∃ (u t : State),
      runEvents s.settle.toNat s = some ([.write true], u)
      ∧ (∀ k, 1 ≤ k → k ≤ s.settle.toNat →
          ∃ v, runEvents k s = some ([.write true], v)
            ∧ v.sckQ = true ∧ v.seq = .clocking ∧ v.lastBit = s.lastBit)
      ∧ (∀ k, s.settle.toNat < k → k ≤ 2 * s.settle.toNat →
          ∃ v, runEvents k s = some (pulseEvents (doutLevel u), v)
            ∧ v.sckQ = false ∧ v.seq = .clocking ∧ v.lastBit = s.lastBit)
      ∧ runEvents (1 + 2 * s.settle.toNat) s = some (pulseEvents (doutLevel u), t)
      ∧ t.lastBit = doutLevel u ∧ t.seq = .idle ∧ t.op = .nop ∧ t.doneP = true
      ∧ t.acc = s.acc ∧ t.bitcnt = s.bitcnt ∧ sameRecord s t ∧ sameConfig s t

/-- R76, R103, R137: RUN offered to the idle block with a valid SCALE makes one pulse without a read, SCK 1 for SETTLE
cycles and then 0 for SETTLE cycles, in INIT, and then begins its first wait with no DELAY. LAST_BIT, ACC, BITCNT and
the record stay. -/
def Obligations.IdlePulseWaveform : Prop :=
  ∀ s : State, s.Inv → s.offersCommand .run → f64Valid s.scale = true → s.noReset (1 + 2 * s.settle.toNat) →
    ∃ t : State,
      (∀ k, 1 ≤ k → k ≤ s.settle.toNat →
          ∃ v, runEvents k s = some ([.write true], v) ∧ v.sckQ = true ∧ v.seq = .init)
      ∧ (∀ k, s.settle.toNat < k → k ≤ 2 * s.settle.toNat →
          ∃ v, runEvents k s = some ([.write true, .write false], v) ∧ v.sckQ = false ∧ v.seq = .init)
      ∧ runEvents (1 + 2 * s.settle.toNat) s = some ([.write true, .write false], t)
      ∧ t.seq = .poll ∧ t.op = .run ∧ t.polls = 0#32 ∧ t.cnt = 1#32 ∧ t.running = true ∧ t.sckQ = false
      ∧ sameSamples s t ∧ sameRecord s t ∧ sameConfig s t

/-- R82, R83, R84, R85, R137, R138: a frame. From a poll that reads LOW, whatever bits the data line gives and whatever
the host does without reset, the block makes exactly 25 pulses in 50·SETTLE cycles and enters PROCESS: ACC is the
number of the first 24 bits, most significant first, the 25th bit is discarded, BITCNT is 25, D_TMP is ACC XOR
0x800000. Bit k is what `PinRead` returns in the state after (2k + 1)·SETTLE edges, when k pulses and the rise of the
next have been made (R74, R56), and at the edge after that the bit stands in ACC and BITCNT is k + 1, as SCK falls
(R60). The record, LAST_BIT and the configuration stay. -/
def Obligations.FrameMakesTwentyFivePulses : Prop :=
  ∀ s : State, s.Inv → s.acts → s.seq = .poll → doutLevel s = false → s.noReset (1 + 50 * s.settle.toNat) →
    ∃ (bits : List Bit) (t : State),
      bits.length = 25
      ∧ (∀ k, k < 25 → ∃ u,
          runEvents ((2 * k + 1) * s.settle.toNat) s = some (frameEvents (bits.take k) ++ [.write true], u)
            ∧ bits.getD k false = doutLevel u)
      ∧ (∀ k, k < 25 → ∃ v,
          runEvents ((2 * k + 1) * s.settle.toNat + 1) s = some (frameEvents (bits.take (k + 1)), v)
            ∧ v.bitcnt.toNat = k + 1 ∧ v.acc = msbFirst ((bits.take (k + 1)).take 24) ∧ v.sckQ = false)
      ∧ runEvents (1 + 50 * s.settle.toNat) s = some (frameEvents bits, t)
      ∧ t.acc = msbFirst (bits.take 24)
      ∧ (∀ k, k < 24 → t.acc.getLsbD (23 - k) = bits.getD k false)
      ∧ t.bitcnt = 25#5 ∧ t.dTmp = t.acc ^^^ 0x800000#24
      ∧ t.seq = .process ∧ t.cnt.toNat = s.build.calcLatency ∧ t.op = s.op ∧ t.sckQ = false
      ∧ t.lastBit = s.lastBit ∧ sameRecord s t ∧ sameConfig s t

/-- R88, R102, R138 (k = 0): READ_FRAME, or ACQUIRE with a valid SCALE, offered to the idle block with a sensor that is
ready at the first poll, ends 1 + 50·SETTLE + CALC_LATENCY cycles after its acceptance, whatever bits DOUT gives and
whatever the host does later without reset: one poll and 25 pulses are made, bit k being what `PinRead` returns in the
state after 1 + (2k + 1)·SETTLE edges (R74, R56), ACC is the number of the first 24 bits, RAW is its decode, DONE_P is
1. ACQUIRE also writes VALUE of that RAW and counts the frame; READ_FRAME leaves VALUE, RATE and FRAME_COUNT. -/
def Obligations.FrameCommandsComplete : Prop :=
  ∀ (s : State) (i : Instr), s.Inv → s.offersCommand i → i = .readFrame ∨ i = .acquire ∧ f64Valid s.scale = true →
    s.noReset (2 + 50 * s.settle.toNat + s.build.calcLatency) → (∀ u, step s = .next u → doutLevel u = false) →
    ∃ (bits : List Bit) (t : State),
      bits.length = 25
      ∧ (∀ k, k < 25 → ∃ u,
          runEvents (1 + (2 * k + 1) * s.settle.toNat) s = some (frameEvents (bits.take k) ++ [.write true], u)
            ∧ bits.getD k false = doutLevel u)
      ∧ runEvents (2 + 50 * s.settle.toNat + s.build.calcLatency) s = some (frameEvents bits, t)
      ∧ t.acc = msbFirst (bits.take 24) ∧ t.bitcnt = 25#5 ∧ t.raw = t.acc ^^^ 0x800000#24
      ∧ t.seq = .idle ∧ t.op = .nop ∧ t.doneP = true ∧ t.sckQ = false
      ∧ t.lastBit = s.lastBit ∧ t.startTime = s.startTime ∧ sameConfig s t
      ∧ (if i = .acquire then
          t.value = calibrate t.raw s.offset s.scale ∧ t.frameCount = s.frameCount + 1#64 ∧ t.frameP = true
            ∧ t.fvQ = true
        else t.value = s.value ∧ t.rate = s.rate ∧ t.frameCount = s.frameCount ∧ t.fvQ = false)

/-! ## Commits -/

/-- R88, R60: the commit of READ_FRAME, whatever the host does at that edge: RAW takes D_TMP; IDLE and DONE_P; VALUE,
RATE, FRAME_COUNT, FRAME_VALID, ACC, BITCNT, LAST_BIT and the configuration stay. -/
def Obligations.ReadFrameCommit : Prop :=
  ∀ s : State, s.acts → s.seq = .process → s.op = .readFrame →
    ∃ t, step s = .next t
      ∧ t.raw = s.dTmp ∧ t.seq = .idle ∧ t.op = .nop ∧ t.doneP = true ∧ t.fvQ = false
      ∧ t.value = s.value ∧ t.rate = s.rate ∧ t.frameCount = s.frameCount ∧ t.startTime = s.startTime
      ∧ sameSamples s t ∧ sameConfig s t

/-- R97, R90, R60: the commit of CALIBRATE: VALUE takes `calibrate(RAW)` and nothing else of the record changes. -/
def Obligations.CalibrateCommit : Prop :=
  ∀ s : State, s.Inv → s.acts → s.seq = .process → s.op = .calibrate →
    ∃ t, step s = .next t
      ∧ t.value = calibrate s.raw s.offset s.scale ∧ t.seq = .idle ∧ t.op = .nop ∧ t.doneP = true ∧ t.fvQ = false
      ∧ t.raw = s.raw ∧ t.rate = s.rate ∧ t.frameCount = s.frameCount ∧ t.startTime = s.startTime
      ∧ sameSamples s t ∧ sameConfig s t

/-- R98, R94, R60: the commit of RECORD_RATE: the count rises by one modulo 2^64, and RATE is the rate of the new count
over `now` minus START_TIME modulo 2^64, `now` sampled at that edge; nothing else of the record changes. -/
def Obligations.RecordRateCommit : Prop :=
  ∀ s : State, s.acts → s.seq = .process → s.op = .recordRate →
    ∃ t, step s = .next t
      ∧ t.frameCount = s.frameCount + 1#64
      ∧ t.rate = frameRate s.build.tickHz (s.frameCount + 1#64) ((portIn s).now - s.startTime)
      ∧ t.seq = .idle ∧ t.op = .nop ∧ t.doneP = true ∧ t.fvQ = false
      ∧ t.raw = s.raw ∧ t.value = s.value ∧ t.startTime = s.startTime
      ∧ sameSamples s t ∧ sameConfig s t

/-- R102, R100, R60: the commit of ACQUIRE writes the whole record at one edge: RAW, VALUE of the new RAW, FRAME_COUNT,
RATE, FRAME_P, `frame_valid` and DONE_P, and returns to IDLE. -/
def Obligations.AcquireCommit : Prop :=
  ∀ s : State, s.Inv → s.acts → s.seq = .process → s.op = .acquire →
    ∃ t, step s = .next t
      ∧ t.raw = s.dTmp ∧ t.value = calibrate s.dTmp s.offset s.scale
      ∧ t.frameCount = s.frameCount + 1#64
      ∧ t.rate = frameRate s.build.tickHz (s.frameCount + 1#64) ((portIn s).now - s.startTime)
      ∧ t.frameP = true ∧ t.fvQ = true ∧ t.doneP = true ∧ t.seq = .idle ∧ t.op = .nop
      ∧ t.startTime = s.startTime ∧ sameSamples s t ∧ sameConfig s t

/-- R103, R100, R106, R111: the commit of a pass of RUN writes the same record, sets no DONE_P, and goes to DELAY for
INTERFRAME cycles, or straight to the next wait when INTERFRAME is 0. -/
def Obligations.RunCommit : Prop :=
  ∀ s : State, s.Inv → s.acts → s.seq = .process → s.op = .run →
    ∃ t, step s = .next t
      ∧ t.raw = s.dTmp ∧ t.value = calibrate s.dTmp s.offset s.scale
      ∧ t.frameCount = s.frameCount + 1#64
      ∧ t.rate = frameRate s.build.tickHz (s.frameCount + 1#64) ((portIn s).now - s.startTime)
      ∧ t.frameP = true ∧ t.fvQ = true ∧ (t.doneP = true → s.doneP = true) ∧ t.op = .run ∧ t.running = true
      ∧ (if s.interframe = 0#32 then t.seq = .poll ∧ t.polls = 0#32 ∧ t.cnt = 1#32
          else t.seq = .delay ∧ t.cnt = s.interframe)
      ∧ t.startTime = s.startTime ∧ sameSamples s t ∧ sameConfig s t

/-- R103, R104, R79, R137: the edge that ends RUN's DELAY begins the next wait for data ready: POLL, POLLS 0, the poll
one cycle later. The edge that ends a back-off, under RUN, ACQUIRE or READ_FRAME, returns to POLL with POLLS as it was.
Both make no port event, keep SCK 0, set no DONE_P, and change no record, sample or configuration register, whatever
the host does. -/
def Obligations.DelayAndBackoffEndInAPoll : Prop :=
  ∀ s : State, s.Inv → s.acts →
    (s.seq = .delay →
        ∃ t, step s = .next t ∧ t.seq = .poll ∧ t.polls = 0#32 ∧ t.cnt = 1#32 ∧ t.op = .run ∧ t.running = true
          ∧ t.pinEvents = [] ∧ t.sckQ = false ∧ (t.doneP = true → s.doneP = true)
          ∧ sameRecord s t ∧ sameSamples s t ∧ sameConfig s t)
      ∧ (s.seq = .backoff →
          ∃ t, step s = .next t ∧ t.seq = .poll ∧ t.polls = s.polls ∧ t.cnt = 1#32 ∧ t.op = s.op
            ∧ t.running = s.running ∧ t.pinEvents = [] ∧ t.sckQ = false ∧ (t.doneP = true → s.doneP = true)
            ∧ sameRecord s t ∧ sameSamples s t ∧ sameConfig s t)

/-- R42: FV_Q is 1 after an edge exactly when that edge committed a frame's record, of ACQUIRE or RUN; so it is 0 after
a reset edge. -/
def Obligations.FrameValidMarksTheCommit : Prop :=
  ∀ s t : State, step s = .next t →
    (frameValid t = t.fvQ)
      ∧ (t.fvQ = true ↔ s.acts ∧ s.seq = .process ∧ (s.op = .acquire ∨ s.op = .run))

/-- R89, R97, R98, R138, R50: DECODE, CALIBRATE and RECORD_RATE offered to the idle block complete after CALC_LATENCY
more cycles with the result of the operands at the offer, whatever the host does after it without reset. -/
def Obligations.ProcessCommandsComplete : Prop :=
  ∀ (s : State) (i : Instr), s.Inv → s.offersCommand i → s.noReset (1 + s.build.calcLatency) →
    i = .decode ∨ i = .calibrate ∧ f64Valid s.scale = true ∨ i = .recordRate →
    ∃ u t, Host.Core.run Sys2Proof.core s.build.calcLatency s = .next u
      ∧ Host.Core.run Sys2Proof.core (1 + s.build.calcLatency) s = .next t
      ∧ busy u = true ∧ t.seq = .idle ∧ t.op = .nop ∧ t.doneP = true
      ∧ t.raw = (if i = .decode then s.arg ^^^ 0x800000#24 else s.raw)
      ∧ t.value = (if i = .calibrate then calibrate s.raw s.offset s.scale else s.value)
      ∧ t.frameCount = (if i = .recordRate then s.frameCount + 1#64 else s.frameCount)
      ∧ t.rate
          = (if i = .recordRate then
              frameRate s.build.tickHz (s.frameCount + 1#64) ((portIn u).now - s.startTime)
            else s.rate)
      ∧ t.startTime = s.startTime ∧ sameSamples s t ∧ sameConfig s t

/-- R105, R50, R104: RUN has no end: from a state in which it runs, over any number of edges without reset and whatever
the host does, it still runs, BUSY is 1, DONE_P is not set by it, and no configuration register has changed. A reset
edge stops it. -/
def Obligations.RunHoldsUntilReset : Prop :=
  (∀ (s : State) (n : Nat), s.Inv → s.running = true → s.noReset n →
      ∃ t, Host.Core.run Sys2Proof.core n s = .next t
        ∧ t.running = true ∧ t.op = .run ∧ busy t = true ∧ (t.doneP = true → s.doneP = true) ∧ sameConfig s t)
    ∧ ∀ s : State, (portIn s).rst = true →
        ∃ t, step s = .next t ∧ t.running = false ∧ t.op = .nop ∧ busy t = false

/-! ## Arithmetic -/

/-- R87: `decode` is XOR with 0x800000, its own inverse, a bijection, and adds 2^23 to the two's complement value. -/
def Obligations.DecodeIsOffsetBinary : Prop :=
  ∀ a : U24,
    decodeFrame a = a ^^^ 0x800000#24
      ∧ decodeFrame (decodeFrame a) = a
      ∧ (∃ b, decodeFrame b = a)
      ∧ ((decodeFrame a).toNat : Int) = a.toInt + 2 ^ 23

/-- R12: `rneQuotient` is `rne64` of the exact quotient: nearest, ties to even, overflow to the infinity of its sign.
The overflow threshold 2^1024 - 2^970 is the one R92 names; binary64 and its rounding are IEEE 754's, which the spec
marks as general knowledge (log 11). -/
def Obligations.QuotientIsRoundedOnce : Prop :=
  ∀ (neg : Bit) (num den : Nat), num ≠ 0 → den ≠ 0 →
    IsRne64 ((if neg then -1 else 1) * ((num : ℚ) / den)) (rneQuotient neg num den)

/-- R90, R91: with a valid SCALE, `calibrate(raw)` is `rne64` of the exact quotient (raw - OFFSET) / SCALE; where the
difference is 0 it is the zero of SCALE's sign. The difference lies between -2^31 + 1 and 2^31 + 2^24 - 1. The layout of
binary64, its rounding, the overflow threshold and the sign of the zero, in `IsRne64` and `f64Value` too, are IEEE 754's
(R12, R44), which the spec marks as general knowledge: PRESUMED, log 11. -/
def Obligations.CalibrateIsTheRoundedQuotient : Prop :=
  ∀ (raw : U24) (offset : Word) (scale : F64), f64Valid scale = true →
    ((raw.toNat : Int) ≠ offset.toInt →
        IsRne64 ((((raw.toNat : Int) - offset.toInt : Int) : ℚ) / f64Value scale) (calibrate raw offset scale))
      ∧ ((raw.toNat : Int) = offset.toInt →
          calibrate raw offset scale = if f64Sign scale then 0x8000000000000000#64 else 0#64)
      ∧ -2147483647 ≤ (raw.toNat : Int) - offset.toInt
      ∧ (raw.toNat : Int) - offset.toInt ≤ 2164260863

/-- R90, and R91 and R92, which the spec derives from it: with a valid SCALE, the result is a zero exactly when
raw = OFFSET, its sign then SCALE's, and never a NaN. The layout of binary64 and the sign of a zero quotient are
IEEE 754's, which the spec marks as general knowledge: PRESUMED, log 11. -/
def Obligations.CalibrateIsZeroOnlyAtOffset : Prop :=
  ∀ (raw : U24) (offset : Word) (scale : F64), f64Valid scale = true →
    ((calibrate raw offset scale).extractLsb' 0 63 = 0#63 ↔ (raw.toNat : Int) = offset.toInt)
      ∧ ((raw.toNat : Int) = offset.toInt → f64Sign (calibrate raw offset scale) = f64Sign scale)
      ∧ ((calibrate raw offset scale).extractLsb' 0 63).toNat ≤ 0x7FF0000000000000

/-- R93: with a valid SCALE, `calibrate` is monotone in raw: non-decreasing for SCALE > 0, non-increasing for
SCALE < 0. The order `f64Order` of binary64 patterns is IEEE 754's (PRESUMED, log 11). -/
def Obligations.CalibrateIsMonotone : Prop :=
  ∀ (a b : U24) (offset : Word) (scale : F64), f64Valid scale = true → a.toNat ≤ b.toNat →
    (f64Sign scale = false →
        f64Order (calibrate a offset scale) ≤ f64Order (calibrate b offset scale))
      ∧ (f64Sign scale = true →
          f64Order (calibrate b offset scale) ≤ f64Order (calibrate a offset scale))

/-- R94, R95: for a legal TICK_HZ, RATE is +0.0 when no tick elapsed or the count wrapped to 0, else `rne64` of
count × TICK_HZ / elapsed, a positive finite number. Binary64 and its rounding are IEEE 754's (PRESUMED, log 11). -/
def Obligations.RateIsTheRoundedQuotient : Prop :=
  ∀ (tickHz : Nat) (count elapsed : U64), 0 < tickHz → tickHz ≤ 4294967295 →
    (elapsed = 0#64 ∨ count = 0#64 → frameRate tickHz count elapsed = 0#64)
      ∧ (elapsed ≠ 0#64 → count ≠ 0#64 →
          IsRne64 ((count.toNat : ℚ) * tickHz / elapsed.toNat) (frameRate tickHz count elapsed)
            ∧ f64Finite (frameRate tickHz count elapsed)
            ∧ 0 < f64Value (frameRate tickHz count elapsed))

/-! ## The synchroniser and the host program -/

/-- R40, R56: the level on `dout` in a cycle is what `PinRead` returns SYNC_STAGES edges later, and at the coming edge
itself with no stage; after a reset edge every stage is 1. -/
def Obligations.SynchroniserDelaysDout : Prop :=
  (∀ s t : State, s.BuildOk → s.noReset s.build.syncStages →
      Host.Core.run Sys2Proof.core s.build.syncStages s = .next t → doutLevel t = (portIn s).dout)
    ∧ ∀ s t : State, (portIn s).rst = true → step s = .next t → ∀ b ∈ t.sync, b = true

/-- R73, R72, R87: the bus transactions of `calib r` with no loop repeated, and the RAW its DECODE leaves: r. -/
def Obligations.CalibPseudoEncodes : Prop :=
  ∀ (r : Nat) (l : String), r < 2 ^ 24 →
    encodeLines (HostPseudo.expand l (.calib r))
        = [.write 0x9#4 (BitVec.ofNat 64 (r ^^^ 0x800000)), .write 0x0#4 0x3#64, .read 0x1#4,
            .write 0x0#4 0x4#64, .read 0x1#4]
      ∧ decodeFrame (BitVec.ofNat 24 (r ^^^ 0x800000)) = BitVec.ofNat 24 r
end

