-- ==== Sys2Proof/Laws/Float.lean ====
section
/-! SUPPORT. What the rounding functions compute: `roundHalfEven` is the nearest integer with ties to even,
`quotientLog2` is the binade of the quotient, and the significand of the result lies in that binade. -/

namespace Sys2Proof.Machine

/-- `roundHalfEven` is within half a unit of the quotient, and even when it is exactly half a unit away. -/
theorem roundHalfEven_nearest (num den : Nat) (hden : 0 < den) :
    2 * num ≤ (2 * roundHalfEven num den + 1) * den
      ∧ 2 * roundHalfEven num den * den ≤ 2 * num + den
      ∧ (2 * num = (2 * roundHalfEven num den + 1) * den ∨ 2 * roundHalfEven num den * den = 2 * num + den →
          roundHalfEven num den % 2 = 0) := by
  have hdiv : den * (num / den) + num % den = num := Nat.div_add_mod num den
  have hlt : num % den < den := Nat.mod_lt num hden
  generalize hq : num / den = q at *
  generalize hr : num % den = r at *
  subst hdiv
  have h1 : (2 * q + 1) * den = 2 * (den * q) + den := by ring
  have h2 : (2 * (q + 1) + 1) * den = 2 * (den * q) + 3 * den := by ring
  have h3 : 2 * q * den = 2 * (den * q) := by ring
  have h4 : 2 * (q + 1) * den = 2 * (den * q) + 2 * den := by ring
  have hval : roundHalfEven (den * q + r) den
      = if 2 * r < den then q else if den < 2 * r then q + 1 else q + q % 2 := by
    simp only [roundHalfEven, hq, hr]
  rw [hval]
  rcases Nat.lt_trichotomy (2 * r) den with h | h | h
  · rw [if_pos h, h1, h3]; omega
  · rw [if_neg (by omega), if_neg (by omega)]
    rcases Nat.mod_two_eq_zero_or_one q with hm | hm <;> rw [hm]
    · simp only [Nat.add_zero]; rw [h1, h3]; omega
    · rw [h2, h4]; omega
  · rw [if_neg (by omega), if_pos h, h2, h4]; omega

/-- Rounding keeps a lower integer bound of the quotient. -/
theorem le_roundHalfEven {num den k : Nat} (hden : 0 < den) (h : k * den ≤ num) : k ≤ roundHalfEven num den := by
  have hk : k ≤ num / den := (Nat.le_div_iff_mul_le hden).mpr h
  simp only [roundHalfEven]
  split
  · exact hk
  · split <;> omega

/-- Rounding keeps an upper integer bound of the quotient. -/
theorem roundHalfEven_le {num den k : Nat} (hden : 0 < den) (h : num ≤ k * den) : roundHalfEven num den ≤ k := by
  have hn := (roundHalfEven_nearest num den hden).2.1
  by_contra hlt
  have hge : (k + 1) * den ≤ roundHalfEven num den * den := Nat.mul_le_mul_right den (by omega)
  have e1 : 2 * roundHalfEven num den * den = 2 * (roundHalfEven num den * den) := by ring
  have e2 : (k + 1) * den = k * den + den := by ring
  omega

/-- The quotient lies in the binade `quotientLog2` names: at least 2^e and less than 2^(e+1). -/
theorem quotientLog2_spec {num den : Nat} (hn : num ≠ 0) (hd : den ≠ 0) :
    quotientGe num den (quotientLog2 num den) = true
      ∧ quotientGe num den (quotientLog2 num den + 1) = false := by
  have hn1 := Nat.log2_self_le hn
  have hn2 := @Nat.lt_log2_self num
  have hd1 := Nat.log2_self_le hd
  have hd2 := @Nat.lt_log2_self den
  generalize ha : Nat.log2 num = a at *
  generalize hb : Nat.log2 den = b at *
  have lower : quotientGe num den ((a : Int) - b - 1) = true := by
    simp only [quotientGe, decide_eq_true_eq]
    by_cases hab : b + 1 ≤ a
    · have e1 : ((a : Int) - b - 1).toNat = a - (b + 1) := by omega
      have e2 : (-((a : Int) - b - 1)).toNat = 0 := by omega
      rw [e1, e2, pow_zero, mul_one]
      calc den * 2 ^ (a - (b + 1)) ≤ 2 ^ (b + 1) * 2 ^ (a - (b + 1)) := Nat.mul_le_mul_right _ hd2.le
        _ = 2 ^ a := by rw [← pow_add]; congr 1; omega
        _ ≤ num := hn1
    · have e1 : ((a : Int) - b - 1).toNat = 0 := by omega
      have e2 : (-((a : Int) - b - 1)).toNat = b + 1 - a := by omega
      rw [e1, e2, pow_zero, mul_one]
      calc den ≤ 2 ^ (b + 1) := hd2.le
        _ = 2 ^ a * 2 ^ (b + 1 - a) := by rw [← pow_add]; congr 1; omega
        _ ≤ num * 2 ^ (b + 1 - a) := Nat.mul_le_mul_right _ hn1
  have upper : quotientGe num den ((a : Int) - b + 1) = false := by
    simp only [quotientGe, decide_eq_false_iff_not, not_le]
    by_cases hab : b ≤ a + 1
    · have e1 : ((a : Int) - b + 1).toNat = a + 1 - b := by omega
      have e2 : (-((a : Int) - b + 1)).toNat = 0 := by omega
      rw [e1, e2, pow_zero, mul_one]
      calc num < 2 ^ (a + 1) := hn2
        _ = 2 ^ b * 2 ^ (a + 1 - b) := by rw [← pow_add]; congr 1; omega
        _ ≤ den * 2 ^ (a + 1 - b) := Nat.mul_le_mul_right _ hd1
    · have e1 : ((a : Int) - b + 1).toNat = 0 := by omega
      have e2 : (-((a : Int) - b + 1)).toNat = b - (a + 1) := by omega
      rw [e1, e2, pow_zero, mul_one]
      calc num * 2 ^ (b - (a + 1)) < 2 ^ (a + 1) * 2 ^ (b - (a + 1)) :=
            Nat.mul_lt_mul_of_pos_right hn2 (by positivity)
        _ = 2 ^ b := by rw [← pow_add]; congr 1; omega
        _ ≤ den := hd1
  simp only [quotientLog2, ha, hb]
  split
  · exact ⟨‹_›, upper⟩
  · refine ⟨lower, ?_⟩
    rw [show (a : Int) - b - 1 + 1 = a - b by ring]
    exact eq_false_of_ne_true ‹_›

/-- A power of two as a quotient of two natural powers, one of them 1. -/
theorem zpow_split (e : Int) : (2 : ℚ) ^ e = 2 ^ e.toNat / 2 ^ (-e).toNat := by
  rcases le_total 0 e with h | h
  · rw [show (-e).toNat = 0 by omega, pow_zero, div_one, ← zpow_natCast, Int.toNat_of_nonneg h]
  · rw [show e.toNat = 0 by omega, pow_zero, one_div, ← zpow_natCast, Int.toNat_of_nonneg (by omega), zpow_neg,
      inv_inv]

/-- `quotientGe` compares the quotient with a power of two exactly. -/
theorem quotientGe_iff (num den : Nat) (e : Int) :
    quotientGe num den e = true ↔ (den : ℚ) * 2 ^ e ≤ num := by
  rw [quotientGe, decide_eq_true_eq, zpow_split, mul_div_assoc', div_le_iff₀ (by positivity)]
  exact_mod_cast Iff.rfl

/-- The quotient in units of 2^u, as the scaled quotient `quotientSignificand` rounds. -/
theorem scaled_quotient {num den : Nat} (hd : den ≠ 0) (u : Int) :
    ((num * 2 ^ (-u).toNat : Nat) : ℚ) = (num : ℚ) / (den * 2 ^ u) * ((den * 2 ^ u.toNat : Nat) : ℚ) := by
  have hd' : (den : ℚ) ≠ 0 := by exact_mod_cast hd
  rw [zpow_split]
  push_cast
  field_simp

/-- Nearest rounding, as a statement on the exact quotient `x = num / den`. -/
theorem roundHalfEven_rat {num den : Nat} {x : ℚ} (hden : 0 < den) (hx : (num : ℚ) = x * den) :
    |x - roundHalfEven num den| ≤ 1 / 2
      ∧ (|x - roundHalfEven num den| = 1 / 2 → roundHalfEven num den % 2 = 0) := by
  obtain ⟨h1, h2, h3⟩ := roundHalfEven_nearest num den hden
  generalize roundHalfEven num den = k at *
  have hd : (0 : ℚ) < den := by exact_mod_cast hden
  have cancel : ∀ a b : ℚ, a * den = b * den ↔ a = b := fun a b => mul_left_inj' hd.ne'
  have u1 : x ≤ k + 1 / 2 := by
    have : (2 * num : ℚ) ≤ (2 * k + 1) * den := by exact_mod_cast h1
    rw [hx] at this
    nlinarith
  have u2 : (k : ℚ) - 1 / 2 ≤ x := by
    have : (2 * k * den : ℚ) ≤ 2 * num + den := by exact_mod_cast h2
    rw [hx] at this
    nlinarith
  refine ⟨abs_le.mpr ⟨by linarith, by linarith⟩, fun h => h3 ?_⟩
  rcases (abs_eq (by norm_num)).mp h with h | h
  · left
    have : (2 * num : ℚ) = (2 * k + 1) * den := by rw [hx]; linear_combination 2 * (den : ℚ) * h
    exact_mod_cast this
  · right
    have : (2 * k * den : ℚ) = 2 * num + den := by rw [hx]; linear_combination -2 * (den : ℚ) * h
    exact_mod_cast this

/-- The quotient of `num` by `den` in units of the last place of its result. -/
abbrev inUlps (num den : Nat) : ℚ := (num : ℚ) / (den * 2 ^ quotientUlp num den)

/-- The rounded significand is within half a unit in the last place of the quotient, and even at exactly half. -/
theorem quotientSignificand_nearest (num : Nat) {den : Nat} (hd : den ≠ 0) :
    |inUlps num den - quotientSignificand num den| ≤ 1 / 2
      ∧ (|inUlps num den - quotientSignificand num den| = 1 / 2 → quotientSignificand num den % 2 = 0) :=
  roundHalfEven_rat (by positivity) (scaled_quotient hd _)

/-- The quotient is less than 2^53 units in the last place; at least 2^52 unless the result is subnormal. -/
theorem inUlps_bounds {num den : Nat} (hn : num ≠ 0) (hd : den ≠ 0) :
    inUlps num den < 2 ^ 53 ∧ (quotientUlp num den ≠ -1074 → 2 ^ 52 ≤ inUlps num den) := by
  obtain ⟨h1, h2⟩ := quotientLog2_spec hn hd
  have hd' : (0 : ℚ) < den := by exact_mod_cast Nat.pos_of_ne_zero hd
  have hu : (0 : ℚ) < den * 2 ^ quotientUlp num den := by positivity
  rw [quotientGe_iff] at h1
  have h2' : (num : ℚ) < den * 2 ^ (quotientLog2 num den + 1) := by
    rw [← not_le, ← quotientGe_iff]; simp [h2]
  constructor
  · rw [div_lt_iff₀ hu]
    calc (num : ℚ) < den * 2 ^ (quotientLog2 num den + 1) := h2'
      _ ≤ den * 2 ^ (quotientUlp num den + 53) := by
          refine mul_le_mul_of_nonneg_left (zpow_le_zpow_right₀ (by norm_num) ?_) hd'.le
          simp only [quotientUlp]; omega
      _ = 2 ^ 53 * (den * 2 ^ quotientUlp num den) := by rw [zpow_add₀ (by norm_num)]; norm_num; ring
  · intro hsub
    rw [le_div_iff₀ hu]
    have he : quotientUlp num den + 52 = quotientLog2 num den := by simp only [quotientUlp] at hsub ⊢; omega
    calc (2 : ℚ) ^ 52 * (den * 2 ^ quotientUlp num den) = den * 2 ^ (quotientUlp num den + 52) := by
          rw [zpow_add₀ (by norm_num)]; norm_num; ring
      _ ≤ num := by rw [he]; exact h1

/-- A rounded significand has at most 53 bits and a carry, and its hidden bit unless the result is subnormal. -/
theorem quotientSignificand_bounds {num den : Nat} (hn : num ≠ 0) (hd : den ≠ 0) :
    quotientSignificand num den ≤ 2 ^ 53
      ∧ (quotientUlp num den ≠ -1074 → 2 ^ 52 ≤ quotientSignificand num den) := by
  obtain ⟨h1, h2⟩ := inUlps_bounds hn hd
  have hpos : 0 < den * 2 ^ (quotientUlp num den).toNat := by positivity
  have hs := scaled_quotient (num := num) hd (quotientUlp num den)
  have hD : (0 : ℚ) < ((den * 2 ^ (quotientUlp num den).toNat : Nat) : ℚ) := by exact_mod_cast hpos
  constructor
  · apply roundHalfEven_le hpos
    have : ((num * 2 ^ (-quotientUlp num den).toNat : Nat) : ℚ)
        ≤ ((2 ^ 53 * (den * 2 ^ (quotientUlp num den).toNat) : Nat) : ℚ) := by
      rw [hs, Nat.cast_mul (2 ^ 53)]
      gcongr
      exact_mod_cast h1.le
    exact_mod_cast this
  · intro hsub
    apply le_roundHalfEven hpos
    have : ((2 ^ 52 * (den * 2 ^ (quotientUlp num den).toNat) : Nat) : ℚ)
        ≤ ((num * 2 ^ (-quotientUlp num den).toNat : Nat) : ℚ) := by
      rw [hs, Nat.cast_mul (2 ^ 52)]
      gcongr
      exact_mod_cast h2 hsub
    exact_mod_cast this

/-- The exponent field below the result's is never negative. -/
theorem quotientUlp_ge (num den : Nat) : -1074 ≤ quotientUlp num den := by unfold quotientUlp; omega

end Sys2Proof.Machine
end

