-- ==== Sys2Proof/Laws/Offer.lean ====
section
/-! SUPPORT. What the offer of a command, a configuration write, a recorded error and a STATUS write can do, said once
(spec R69, R50, R109, R112). -/

namespace Sys2Proof.Machine

variable {s : State}

/-- A busy block takes no command (R69). -/
theorem offer_busy (i : Instr) (start : State → State) (h : busy s = true) :
    offer i start s = raiseErr .busy s := by simp [offer, h]

/-- A command that needs SCALE is turned away when SCALE is not valid (R69). -/
theorem offer_cfgScale (i : Instr) (start : State → State) (h : busy s = false) (hn : needsScale i = true)
    (hv : scaleValid s = false) : offer i start s = raiseErr .cfgScale s := by simp [offer, h, hn, hv]

/-- Otherwise the command is accepted and its first action is made (R69). -/
theorem offer_accepted (i : Instr) (start : State → State) (h : busy s = false)
    (hv : needsScale i = true → scaleValid s = true) : offer i start s = start { s with op := i } := by
  cases hn : needsScale i <;> simp_all [offer]

/-- The offer of a command does one of three things (R69). -/
theorem offer_cases (i : Instr) (start : State → State) (s : State) :
    (busy s = true ∧ offer i start s = raiseErr .busy s)
      ∨ (busy s = false ∧ needsScale i = true ∧ scaleValid s = false ∧ offer i start s = raiseErr .cfgScale s)
      ∨ (busy s = false ∧ (needsScale i = true → scaleValid s = true) ∧ offer i start s = start { s with op := i }) := by
  cases hb : busy s
  · cases hn : needsScale i
    · exact .inr (.inr ⟨rfl, by simp, offer_accepted i start hb (by simp [hn])⟩)
    · cases hv : scaleValid s
      · exact .inr (.inl ⟨rfl, rfl, rfl, offer_cfgScale i start hb hn hv⟩)
      · exact .inr (.inr ⟨rfl, fun _ => rfl, offer_accepted i start hb fun _ => hv⟩)
  · exact .inl ⟨rfl, offer_busy i start hb⟩

/-- A configuration write to a busy block is turned away (R50). -/
theorem configWrite_busy (store : State → State) (h : busy s = true) : configWrite store s = raiseErr .busy s := by
  simp [configWrite, h]

/-- A configuration write to an idle block is stored (R50). -/
theorem configWrite_idle (store : State → State) (h : busy s = false) : configWrite store s = store s := by
  simp [configWrite, h]

/-- SETTLE and BACKOFF are never stored as 0 (R22, R23). -/
theorem atLeastOne_ne_zero (v : Word) : atLeastOne v ≠ 0#32 := by
  unfold atLeastOne
  split
  · decide
  · assumption

/-- The code recorded is never NONE when both errors are errors (R108, R109). -/
theorem recordedErr_ne_none (c : ErrCode) (e : Option ErrCode) (hc : c ≠ .none) (he : e ≠ some .none) :
    recordedErr e c ≠ .none := by
  unfold recordedErr lowerErr
  split <;> (try split) <;> simp_all

/-- After an error, ERR_CODE is what the edge's record holds (R109). -/
theorem raiseErr_records_errCode (c : ErrCode) (s : State) : (raiseErr c s).edgeErr = some (raiseErr c s).errCode := rfl

/-- A STATUS write clears neither ERR_P nor ERR_CODE at an edge with an error (R112). -/
theorem clearPending_of_edgeErr (v : Word) (h : s.edgeErr ≠ none) :
    (clearPending v s).errP = s.errP ∧ (clearPending v s).errCode = s.errCode := by
  have : clearsErr v s = false := by
    cases he : s.edgeErr <;> simp_all [clearsErr]
  simp [clearPending, this]

/-- SYNC keeps its length (R40). -/
theorem shiftSync_length (sync : List Bit) (d : Bit) : (shiftSync sync d).length = sync.length := by
  simp [shiftSync]

end Sys2Proof.Machine
end

