-- ==== Sys2Proof/Laws/State.lean ====
section
/-! SUPPORT. What each shared update of State does to each field, true by definition: one lemma a field an update, so
that no later proof unfolds a record update. -/

namespace Sys2Proof.Machine

variable (s : State)

/-! ## pinRead -/

@[simp] theorem pinRead_build : (pinRead s).build = s.build := rfl
@[simp] theorem pinRead_sckQ : (pinRead s).sckQ = s.sckQ := rfl
@[simp] theorem pinRead_seq : (pinRead s).seq = s.seq := rfl
@[simp] theorem pinRead_running : (pinRead s).running = s.running := rfl
@[simp] theorem pinRead_lastBit : (pinRead s).lastBit = s.lastBit := rfl
@[simp] theorem pinRead_doneP : (pinRead s).doneP = s.doneP := rfl
@[simp] theorem pinRead_frameP : (pinRead s).frameP = s.frameP := rfl
@[simp] theorem pinRead_errP : (pinRead s).errP = s.errP := rfl
@[simp] theorem pinRead_errCode : (pinRead s).errCode = s.errCode := rfl
@[simp] theorem pinRead_bitcnt : (pinRead s).bitcnt = s.bitcnt := rfl
@[simp] theorem pinRead_ctrl : (pinRead s).ctrl = s.ctrl := rfl
@[simp] theorem pinRead_offset : (pinRead s).offset = s.offset := rfl
@[simp] theorem pinRead_scale : (pinRead s).scale = s.scale := rfl
@[simp] theorem pinRead_settle : (pinRead s).settle = s.settle := rfl
@[simp] theorem pinRead_backoff : (pinRead s).backoff = s.backoff := rfl
@[simp] theorem pinRead_interframe : (pinRead s).interframe = s.interframe := rfl
@[simp] theorem pinRead_timeout : (pinRead s).timeout = s.timeout := rfl
@[simp] theorem pinRead_arg : (pinRead s).arg = s.arg := rfl
@[simp] theorem pinRead_acc : (pinRead s).acc = s.acc := rfl
@[simp] theorem pinRead_raw : (pinRead s).raw = s.raw := rfl
@[simp] theorem pinRead_value : (pinRead s).value = s.value := rfl
@[simp] theorem pinRead_rate : (pinRead s).rate = s.rate := rfl
@[simp] theorem pinRead_frameCount : (pinRead s).frameCount = s.frameCount := rfl
@[simp] theorem pinRead_startTime : (pinRead s).startTime = s.startTime := rfl
@[simp] theorem pinRead_op : (pinRead s).op = s.op := rfl
@[simp] theorem pinRead_phase : (pinRead s).phase = s.phase := rfl
@[simp] theorem pinRead_cnt : (pinRead s).cnt = s.cnt := rfl
@[simp] theorem pinRead_polls : (pinRead s).polls = s.polls := rfl
@[simp] theorem pinRead_sync : (pinRead s).sync = s.sync := rfl
@[simp] theorem pinRead_dTmp : (pinRead s).dTmp = s.dTmp := rfl
@[simp] theorem pinRead_fvQ : (pinRead s).fvQ = s.fvQ := rfl
@[simp] theorem pinRead_pulseBit : (pinRead s).pulseBit = s.pulseBit := rfl
@[simp] theorem pinRead_fresh : (pinRead s).fresh = s.fresh := rfl
@[simp] theorem pinRead_inputs : (pinRead s).inputs = s.inputs := rfl
@[simp] theorem pinRead_edges : (pinRead s).edges = s.edges := rfl
@[simp] theorem pinRead_rdata : (pinRead s).rdata = s.rdata := rfl
@[simp] theorem pinRead_pinEvents : (pinRead s).pinEvents = s.pinEvents ++ [.read (doutLevel s)] := rfl
@[simp] theorem pinRead_edgeErr : (pinRead s).edgeErr = s.edgeErr := rfl

/-! ## pinWrite -/

@[simp] theorem pinWrite_build (b : Bit) : (pinWrite b s).build = s.build := rfl
@[simp] theorem pinWrite_sckQ (b : Bit) : (pinWrite b s).sckQ = b := rfl
@[simp] theorem pinWrite_seq (b : Bit) : (pinWrite b s).seq = s.seq := rfl
@[simp] theorem pinWrite_running (b : Bit) : (pinWrite b s).running = s.running := rfl
@[simp] theorem pinWrite_lastBit (b : Bit) : (pinWrite b s).lastBit = s.lastBit := rfl
@[simp] theorem pinWrite_doneP (b : Bit) : (pinWrite b s).doneP = s.doneP := rfl
@[simp] theorem pinWrite_frameP (b : Bit) : (pinWrite b s).frameP = s.frameP := rfl
@[simp] theorem pinWrite_errP (b : Bit) : (pinWrite b s).errP = s.errP := rfl
@[simp] theorem pinWrite_errCode (b : Bit) : (pinWrite b s).errCode = s.errCode := rfl
@[simp] theorem pinWrite_bitcnt (b : Bit) : (pinWrite b s).bitcnt = s.bitcnt := rfl
@[simp] theorem pinWrite_ctrl (b : Bit) : (pinWrite b s).ctrl = s.ctrl := rfl
@[simp] theorem pinWrite_offset (b : Bit) : (pinWrite b s).offset = s.offset := rfl
@[simp] theorem pinWrite_scale (b : Bit) : (pinWrite b s).scale = s.scale := rfl
@[simp] theorem pinWrite_settle (b : Bit) : (pinWrite b s).settle = s.settle := rfl
@[simp] theorem pinWrite_backoff (b : Bit) : (pinWrite b s).backoff = s.backoff := rfl
@[simp] theorem pinWrite_interframe (b : Bit) : (pinWrite b s).interframe = s.interframe := rfl
@[simp] theorem pinWrite_timeout (b : Bit) : (pinWrite b s).timeout = s.timeout := rfl
@[simp] theorem pinWrite_arg (b : Bit) : (pinWrite b s).arg = s.arg := rfl
@[simp] theorem pinWrite_acc (b : Bit) : (pinWrite b s).acc = s.acc := rfl
@[simp] theorem pinWrite_raw (b : Bit) : (pinWrite b s).raw = s.raw := rfl
@[simp] theorem pinWrite_value (b : Bit) : (pinWrite b s).value = s.value := rfl
@[simp] theorem pinWrite_rate (b : Bit) : (pinWrite b s).rate = s.rate := rfl
@[simp] theorem pinWrite_frameCount (b : Bit) : (pinWrite b s).frameCount = s.frameCount := rfl
@[simp] theorem pinWrite_startTime (b : Bit) : (pinWrite b s).startTime = s.startTime := rfl
@[simp] theorem pinWrite_op (b : Bit) : (pinWrite b s).op = s.op := rfl
@[simp] theorem pinWrite_phase (b : Bit) : (pinWrite b s).phase = s.phase := rfl
@[simp] theorem pinWrite_cnt (b : Bit) : (pinWrite b s).cnt = s.cnt := rfl
@[simp] theorem pinWrite_polls (b : Bit) : (pinWrite b s).polls = s.polls := rfl
@[simp] theorem pinWrite_sync (b : Bit) : (pinWrite b s).sync = s.sync := rfl
@[simp] theorem pinWrite_dTmp (b : Bit) : (pinWrite b s).dTmp = s.dTmp := rfl
@[simp] theorem pinWrite_fvQ (b : Bit) : (pinWrite b s).fvQ = s.fvQ := rfl
@[simp] theorem pinWrite_pulseBit (b : Bit) : (pinWrite b s).pulseBit = s.pulseBit := rfl
@[simp] theorem pinWrite_fresh (b : Bit) : (pinWrite b s).fresh = s.fresh := rfl
@[simp] theorem pinWrite_inputs (b : Bit) : (pinWrite b s).inputs = s.inputs := rfl
@[simp] theorem pinWrite_edges (b : Bit) : (pinWrite b s).edges = s.edges := rfl
@[simp] theorem pinWrite_rdata (b : Bit) : (pinWrite b s).rdata = s.rdata := rfl
@[simp] theorem pinWrite_pinEvents (b : Bit) : (pinWrite b s).pinEvents = s.pinEvents ++ [.write b] := rfl
@[simp] theorem pinWrite_edgeErr (b : Bit) : (pinWrite b s).edgeErr = s.edgeErr := rfl

/-! ## waitFor -/

@[simp] theorem waitFor_build (n : Word) : (waitFor n s).build = s.build := rfl
@[simp] theorem waitFor_sckQ (n : Word) : (waitFor n s).sckQ = s.sckQ := rfl
@[simp] theorem waitFor_seq (n : Word) : (waitFor n s).seq = s.seq := rfl
@[simp] theorem waitFor_running (n : Word) : (waitFor n s).running = s.running := rfl
@[simp] theorem waitFor_lastBit (n : Word) : (waitFor n s).lastBit = s.lastBit := rfl
@[simp] theorem waitFor_doneP (n : Word) : (waitFor n s).doneP = s.doneP := rfl
@[simp] theorem waitFor_frameP (n : Word) : (waitFor n s).frameP = s.frameP := rfl
@[simp] theorem waitFor_errP (n : Word) : (waitFor n s).errP = s.errP := rfl
@[simp] theorem waitFor_errCode (n : Word) : (waitFor n s).errCode = s.errCode := rfl
@[simp] theorem waitFor_bitcnt (n : Word) : (waitFor n s).bitcnt = s.bitcnt := rfl
@[simp] theorem waitFor_ctrl (n : Word) : (waitFor n s).ctrl = s.ctrl := rfl
@[simp] theorem waitFor_offset (n : Word) : (waitFor n s).offset = s.offset := rfl
@[simp] theorem waitFor_scale (n : Word) : (waitFor n s).scale = s.scale := rfl
@[simp] theorem waitFor_settle (n : Word) : (waitFor n s).settle = s.settle := rfl
@[simp] theorem waitFor_backoff (n : Word) : (waitFor n s).backoff = s.backoff := rfl
@[simp] theorem waitFor_interframe (n : Word) : (waitFor n s).interframe = s.interframe := rfl
@[simp] theorem waitFor_timeout (n : Word) : (waitFor n s).timeout = s.timeout := rfl
@[simp] theorem waitFor_arg (n : Word) : (waitFor n s).arg = s.arg := rfl
@[simp] theorem waitFor_acc (n : Word) : (waitFor n s).acc = s.acc := rfl
@[simp] theorem waitFor_raw (n : Word) : (waitFor n s).raw = s.raw := rfl
@[simp] theorem waitFor_value (n : Word) : (waitFor n s).value = s.value := rfl
@[simp] theorem waitFor_rate (n : Word) : (waitFor n s).rate = s.rate := rfl
@[simp] theorem waitFor_frameCount (n : Word) : (waitFor n s).frameCount = s.frameCount := rfl
@[simp] theorem waitFor_startTime (n : Word) : (waitFor n s).startTime = s.startTime := rfl
@[simp] theorem waitFor_op (n : Word) : (waitFor n s).op = s.op := rfl
@[simp] theorem waitFor_phase (n : Word) : (waitFor n s).phase = s.phase := rfl
@[simp] theorem waitFor_cnt (n : Word) : (waitFor n s).cnt = n := rfl
@[simp] theorem waitFor_polls (n : Word) : (waitFor n s).polls = s.polls := rfl
@[simp] theorem waitFor_sync (n : Word) : (waitFor n s).sync = s.sync := rfl
@[simp] theorem waitFor_dTmp (n : Word) : (waitFor n s).dTmp = s.dTmp := rfl
@[simp] theorem waitFor_fvQ (n : Word) : (waitFor n s).fvQ = s.fvQ := rfl
@[simp] theorem waitFor_pulseBit (n : Word) : (waitFor n s).pulseBit = s.pulseBit := rfl
@[simp] theorem waitFor_fresh (n : Word) : (waitFor n s).fresh = s.fresh := rfl
@[simp] theorem waitFor_inputs (n : Word) : (waitFor n s).inputs = s.inputs := rfl
@[simp] theorem waitFor_edges (n : Word) : (waitFor n s).edges = s.edges := rfl
@[simp] theorem waitFor_rdata (n : Word) : (waitFor n s).rdata = s.rdata := rfl
@[simp] theorem waitFor_pinEvents (n : Word) : (waitFor n s).pinEvents = s.pinEvents := rfl
@[simp] theorem waitFor_edgeErr (n : Word) : (waitFor n s).edgeErr = s.edgeErr := rfl

/-! ## countDown -/

@[simp] theorem countDown_build : (countDown s).build = s.build := rfl
@[simp] theorem countDown_sckQ : (countDown s).sckQ = s.sckQ := rfl
@[simp] theorem countDown_seq : (countDown s).seq = s.seq := rfl
@[simp] theorem countDown_running : (countDown s).running = s.running := rfl
@[simp] theorem countDown_lastBit : (countDown s).lastBit = s.lastBit := rfl
@[simp] theorem countDown_doneP : (countDown s).doneP = s.doneP := rfl
@[simp] theorem countDown_frameP : (countDown s).frameP = s.frameP := rfl
@[simp] theorem countDown_errP : (countDown s).errP = s.errP := rfl
@[simp] theorem countDown_errCode : (countDown s).errCode = s.errCode := rfl
@[simp] theorem countDown_bitcnt : (countDown s).bitcnt = s.bitcnt := rfl
@[simp] theorem countDown_ctrl : (countDown s).ctrl = s.ctrl := rfl
@[simp] theorem countDown_offset : (countDown s).offset = s.offset := rfl
@[simp] theorem countDown_scale : (countDown s).scale = s.scale := rfl
@[simp] theorem countDown_settle : (countDown s).settle = s.settle := rfl
@[simp] theorem countDown_backoff : (countDown s).backoff = s.backoff := rfl
@[simp] theorem countDown_interframe : (countDown s).interframe = s.interframe := rfl
@[simp] theorem countDown_timeout : (countDown s).timeout = s.timeout := rfl
@[simp] theorem countDown_arg : (countDown s).arg = s.arg := rfl
@[simp] theorem countDown_acc : (countDown s).acc = s.acc := rfl
@[simp] theorem countDown_raw : (countDown s).raw = s.raw := rfl
@[simp] theorem countDown_value : (countDown s).value = s.value := rfl
@[simp] theorem countDown_rate : (countDown s).rate = s.rate := rfl
@[simp] theorem countDown_frameCount : (countDown s).frameCount = s.frameCount := rfl
@[simp] theorem countDown_startTime : (countDown s).startTime = s.startTime := rfl
@[simp] theorem countDown_op : (countDown s).op = s.op := rfl
@[simp] theorem countDown_phase : (countDown s).phase = s.phase := rfl
@[simp] theorem countDown_cnt : (countDown s).cnt = s.cnt - 1#32 := rfl
@[simp] theorem countDown_polls : (countDown s).polls = s.polls := rfl
@[simp] theorem countDown_sync : (countDown s).sync = s.sync := rfl
@[simp] theorem countDown_dTmp : (countDown s).dTmp = s.dTmp := rfl
@[simp] theorem countDown_fvQ : (countDown s).fvQ = s.fvQ := rfl
@[simp] theorem countDown_pulseBit : (countDown s).pulseBit = s.pulseBit := rfl
@[simp] theorem countDown_fresh : (countDown s).fresh = s.fresh := rfl
@[simp] theorem countDown_inputs : (countDown s).inputs = s.inputs := rfl
@[simp] theorem countDown_edges : (countDown s).edges = s.edges := rfl
@[simp] theorem countDown_rdata : (countDown s).rdata = s.rdata := rfl
@[simp] theorem countDown_pinEvents : (countDown s).pinEvents = s.pinEvents := rfl
@[simp] theorem countDown_edgeErr : (countDown s).edgeErr = s.edgeErr := rfl

/-! ## raiseErr -/

@[simp] theorem raiseErr_build (c : ErrCode) : (raiseErr c s).build = s.build := rfl
@[simp] theorem raiseErr_sckQ (c : ErrCode) : (raiseErr c s).sckQ = s.sckQ := rfl
@[simp] theorem raiseErr_seq (c : ErrCode) : (raiseErr c s).seq = s.seq := rfl
@[simp] theorem raiseErr_running (c : ErrCode) : (raiseErr c s).running = s.running := rfl
@[simp] theorem raiseErr_lastBit (c : ErrCode) : (raiseErr c s).lastBit = s.lastBit := rfl
@[simp] theorem raiseErr_doneP (c : ErrCode) : (raiseErr c s).doneP = s.doneP := rfl
@[simp] theorem raiseErr_frameP (c : ErrCode) : (raiseErr c s).frameP = s.frameP := rfl
@[simp] theorem raiseErr_errP (c : ErrCode) : (raiseErr c s).errP = true := rfl
@[simp] theorem raiseErr_errCode (c : ErrCode) : (raiseErr c s).errCode = recordedErr s.edgeErr c := rfl
@[simp] theorem raiseErr_bitcnt (c : ErrCode) : (raiseErr c s).bitcnt = s.bitcnt := rfl
@[simp] theorem raiseErr_ctrl (c : ErrCode) : (raiseErr c s).ctrl = s.ctrl := rfl
@[simp] theorem raiseErr_offset (c : ErrCode) : (raiseErr c s).offset = s.offset := rfl
@[simp] theorem raiseErr_scale (c : ErrCode) : (raiseErr c s).scale = s.scale := rfl
@[simp] theorem raiseErr_settle (c : ErrCode) : (raiseErr c s).settle = s.settle := rfl
@[simp] theorem raiseErr_backoff (c : ErrCode) : (raiseErr c s).backoff = s.backoff := rfl
@[simp] theorem raiseErr_interframe (c : ErrCode) : (raiseErr c s).interframe = s.interframe := rfl
@[simp] theorem raiseErr_timeout (c : ErrCode) : (raiseErr c s).timeout = s.timeout := rfl
@[simp] theorem raiseErr_arg (c : ErrCode) : (raiseErr c s).arg = s.arg := rfl
@[simp] theorem raiseErr_acc (c : ErrCode) : (raiseErr c s).acc = s.acc := rfl
@[simp] theorem raiseErr_raw (c : ErrCode) : (raiseErr c s).raw = s.raw := rfl
@[simp] theorem raiseErr_value (c : ErrCode) : (raiseErr c s).value = s.value := rfl
@[simp] theorem raiseErr_rate (c : ErrCode) : (raiseErr c s).rate = s.rate := rfl
@[simp] theorem raiseErr_frameCount (c : ErrCode) : (raiseErr c s).frameCount = s.frameCount := rfl
@[simp] theorem raiseErr_startTime (c : ErrCode) : (raiseErr c s).startTime = s.startTime := rfl
@[simp] theorem raiseErr_op (c : ErrCode) : (raiseErr c s).op = s.op := rfl
@[simp] theorem raiseErr_phase (c : ErrCode) : (raiseErr c s).phase = s.phase := rfl
@[simp] theorem raiseErr_cnt (c : ErrCode) : (raiseErr c s).cnt = s.cnt := rfl
@[simp] theorem raiseErr_polls (c : ErrCode) : (raiseErr c s).polls = s.polls := rfl
@[simp] theorem raiseErr_sync (c : ErrCode) : (raiseErr c s).sync = s.sync := rfl
@[simp] theorem raiseErr_dTmp (c : ErrCode) : (raiseErr c s).dTmp = s.dTmp := rfl
@[simp] theorem raiseErr_fvQ (c : ErrCode) : (raiseErr c s).fvQ = s.fvQ := rfl
@[simp] theorem raiseErr_pulseBit (c : ErrCode) : (raiseErr c s).pulseBit = s.pulseBit := rfl
@[simp] theorem raiseErr_fresh (c : ErrCode) : (raiseErr c s).fresh = s.fresh := rfl
@[simp] theorem raiseErr_inputs (c : ErrCode) : (raiseErr c s).inputs = s.inputs := rfl
@[simp] theorem raiseErr_edges (c : ErrCode) : (raiseErr c s).edges = s.edges := rfl
@[simp] theorem raiseErr_rdata (c : ErrCode) : (raiseErr c s).rdata = s.rdata := rfl
@[simp] theorem raiseErr_pinEvents (c : ErrCode) : (raiseErr c s).pinEvents = s.pinEvents := rfl
@[simp] theorem raiseErr_edgeErr (c : ErrCode) : (raiseErr c s).edgeErr = some (recordedErr s.edgeErr c) := rfl

/-! ## beginEdge -/

@[simp] theorem beginEdge_build : (beginEdge s).build = s.build := rfl
@[simp] theorem beginEdge_sckQ : (beginEdge s).sckQ = s.sckQ := rfl
@[simp] theorem beginEdge_seq : (beginEdge s).seq = s.seq := rfl
@[simp] theorem beginEdge_running : (beginEdge s).running = s.running := rfl
@[simp] theorem beginEdge_lastBit : (beginEdge s).lastBit = s.lastBit := rfl
@[simp] theorem beginEdge_doneP : (beginEdge s).doneP = s.doneP := rfl
@[simp] theorem beginEdge_frameP : (beginEdge s).frameP = s.frameP := rfl
@[simp] theorem beginEdge_errP : (beginEdge s).errP = s.errP := rfl
@[simp] theorem beginEdge_errCode : (beginEdge s).errCode = s.errCode := rfl
@[simp] theorem beginEdge_bitcnt : (beginEdge s).bitcnt = s.bitcnt := rfl
@[simp] theorem beginEdge_ctrl : (beginEdge s).ctrl = s.ctrl := rfl
@[simp] theorem beginEdge_offset : (beginEdge s).offset = s.offset := rfl
@[simp] theorem beginEdge_scale : (beginEdge s).scale = s.scale := rfl
@[simp] theorem beginEdge_settle : (beginEdge s).settle = s.settle := rfl
@[simp] theorem beginEdge_backoff : (beginEdge s).backoff = s.backoff := rfl
@[simp] theorem beginEdge_interframe : (beginEdge s).interframe = s.interframe := rfl
@[simp] theorem beginEdge_timeout : (beginEdge s).timeout = s.timeout := rfl
@[simp] theorem beginEdge_arg : (beginEdge s).arg = s.arg := rfl
@[simp] theorem beginEdge_acc : (beginEdge s).acc = s.acc := rfl
@[simp] theorem beginEdge_raw : (beginEdge s).raw = s.raw := rfl
@[simp] theorem beginEdge_value : (beginEdge s).value = s.value := rfl
@[simp] theorem beginEdge_rate : (beginEdge s).rate = s.rate := rfl
@[simp] theorem beginEdge_frameCount : (beginEdge s).frameCount = s.frameCount := rfl
@[simp] theorem beginEdge_startTime : (beginEdge s).startTime = s.startTime := rfl
@[simp] theorem beginEdge_op : (beginEdge s).op = s.op := rfl
@[simp] theorem beginEdge_phase : (beginEdge s).phase = s.phase := rfl
@[simp] theorem beginEdge_cnt : (beginEdge s).cnt = s.cnt := rfl
@[simp] theorem beginEdge_polls : (beginEdge s).polls = s.polls := rfl
@[simp] theorem beginEdge_sync : (beginEdge s).sync = s.sync := rfl
@[simp] theorem beginEdge_dTmp : (beginEdge s).dTmp = s.dTmp := rfl
@[simp] theorem beginEdge_fvQ : (beginEdge s).fvQ = false := rfl
@[simp] theorem beginEdge_pulseBit : (beginEdge s).pulseBit = s.pulseBit := rfl
@[simp] theorem beginEdge_fresh : (beginEdge s).fresh = false := rfl
@[simp] theorem beginEdge_inputs : (beginEdge s).inputs = s.inputs := rfl
@[simp] theorem beginEdge_edges : (beginEdge s).edges = s.edges := rfl
@[simp] theorem beginEdge_rdata : (beginEdge s).rdata = s.rdata := rfl
@[simp] theorem beginEdge_pinEvents : (beginEdge s).pinEvents = [] := rfl
@[simp] theorem beginEdge_edgeErr : (beginEdge s).edgeErr = none := rfl

/-! ## finishEdge -/

@[simp] theorem finishEdge_build (d : U64) : (finishEdge d s).build = s.build := rfl
@[simp] theorem finishEdge_sckQ (d : U64) : (finishEdge d s).sckQ = s.sckQ := rfl
@[simp] theorem finishEdge_seq (d : U64) : (finishEdge d s).seq = s.seq := rfl
@[simp] theorem finishEdge_running (d : U64) : (finishEdge d s).running = s.running := rfl
@[simp] theorem finishEdge_lastBit (d : U64) : (finishEdge d s).lastBit = s.lastBit := rfl
@[simp] theorem finishEdge_doneP (d : U64) : (finishEdge d s).doneP = s.doneP := rfl
@[simp] theorem finishEdge_frameP (d : U64) : (finishEdge d s).frameP = s.frameP := rfl
@[simp] theorem finishEdge_errP (d : U64) : (finishEdge d s).errP = s.errP := rfl
@[simp] theorem finishEdge_errCode (d : U64) : (finishEdge d s).errCode = s.errCode := rfl
@[simp] theorem finishEdge_bitcnt (d : U64) : (finishEdge d s).bitcnt = s.bitcnt := rfl
@[simp] theorem finishEdge_ctrl (d : U64) : (finishEdge d s).ctrl = s.ctrl := rfl
@[simp] theorem finishEdge_offset (d : U64) : (finishEdge d s).offset = s.offset := rfl
@[simp] theorem finishEdge_scale (d : U64) : (finishEdge d s).scale = s.scale := rfl
@[simp] theorem finishEdge_settle (d : U64) : (finishEdge d s).settle = s.settle := rfl
@[simp] theorem finishEdge_backoff (d : U64) : (finishEdge d s).backoff = s.backoff := rfl
@[simp] theorem finishEdge_interframe (d : U64) : (finishEdge d s).interframe = s.interframe := rfl
@[simp] theorem finishEdge_timeout (d : U64) : (finishEdge d s).timeout = s.timeout := rfl
@[simp] theorem finishEdge_arg (d : U64) : (finishEdge d s).arg = s.arg := rfl
@[simp] theorem finishEdge_acc (d : U64) : (finishEdge d s).acc = s.acc := rfl
@[simp] theorem finishEdge_raw (d : U64) : (finishEdge d s).raw = s.raw := rfl
@[simp] theorem finishEdge_value (d : U64) : (finishEdge d s).value = s.value := rfl
@[simp] theorem finishEdge_rate (d : U64) : (finishEdge d s).rate = s.rate := rfl
@[simp] theorem finishEdge_frameCount (d : U64) : (finishEdge d s).frameCount = s.frameCount := rfl
@[simp] theorem finishEdge_startTime (d : U64) : (finishEdge d s).startTime = s.startTime := rfl
@[simp] theorem finishEdge_op (d : U64) : (finishEdge d s).op = s.op := rfl
@[simp] theorem finishEdge_phase (d : U64) : (finishEdge d s).phase = s.phase := rfl
@[simp] theorem finishEdge_cnt (d : U64) : (finishEdge d s).cnt = s.cnt := rfl
@[simp] theorem finishEdge_polls (d : U64) : (finishEdge d s).polls = s.polls := rfl
@[simp] theorem finishEdge_sync (d : U64) : (finishEdge d s).sync = shiftSync s.sync (portIn s).dout := rfl
@[simp] theorem finishEdge_dTmp (d : U64) : (finishEdge d s).dTmp = s.dTmp := rfl
@[simp] theorem finishEdge_fvQ (d : U64) : (finishEdge d s).fvQ = s.fvQ := rfl
@[simp] theorem finishEdge_pulseBit (d : U64) : (finishEdge d s).pulseBit = s.pulseBit := rfl
@[simp] theorem finishEdge_fresh (d : U64) : (finishEdge d s).fresh = s.fresh := rfl
@[simp] theorem finishEdge_inputs (d : U64) : (finishEdge d s).inputs = s.inputs.tail := rfl
@[simp] theorem finishEdge_edges (d : U64) : (finishEdge d s).edges = s.edges + 1 := rfl
@[simp] theorem finishEdge_rdata (d : U64) : (finishEdge d s).rdata = d := rfl
@[simp] theorem finishEdge_pinEvents (d : U64) : (finishEdge d s).pinEvents = s.pinEvents := rfl
@[simp] theorem finishEdge_edgeErr (d : U64) : (finishEdge d s).edgeErr = s.edgeErr := rfl

/-! ## complete -/

@[simp] theorem complete_build : (complete s).build = s.build := rfl
@[simp] theorem complete_sckQ : (complete s).sckQ = s.sckQ := rfl
@[simp] theorem complete_seq : (complete s).seq = .idle := rfl
@[simp] theorem complete_running : (complete s).running = s.running := rfl
@[simp] theorem complete_lastBit : (complete s).lastBit = s.lastBit := rfl
@[simp] theorem complete_doneP : (complete s).doneP = true := rfl
@[simp] theorem complete_frameP : (complete s).frameP = s.frameP := rfl
@[simp] theorem complete_errP : (complete s).errP = s.errP := rfl
@[simp] theorem complete_errCode : (complete s).errCode = s.errCode := rfl
@[simp] theorem complete_bitcnt : (complete s).bitcnt = s.bitcnt := rfl
@[simp] theorem complete_ctrl : (complete s).ctrl = s.ctrl := rfl
@[simp] theorem complete_offset : (complete s).offset = s.offset := rfl
@[simp] theorem complete_scale : (complete s).scale = s.scale := rfl
@[simp] theorem complete_settle : (complete s).settle = s.settle := rfl
@[simp] theorem complete_backoff : (complete s).backoff = s.backoff := rfl
@[simp] theorem complete_interframe : (complete s).interframe = s.interframe := rfl
@[simp] theorem complete_timeout : (complete s).timeout = s.timeout := rfl
@[simp] theorem complete_arg : (complete s).arg = s.arg := rfl
@[simp] theorem complete_acc : (complete s).acc = s.acc := rfl
@[simp] theorem complete_raw : (complete s).raw = s.raw := rfl
@[simp] theorem complete_value : (complete s).value = s.value := rfl
@[simp] theorem complete_rate : (complete s).rate = s.rate := rfl
@[simp] theorem complete_frameCount : (complete s).frameCount = s.frameCount := rfl
@[simp] theorem complete_startTime : (complete s).startTime = s.startTime := rfl
@[simp] theorem complete_op : (complete s).op = .nop := rfl
@[simp] theorem complete_phase : (complete s).phase = s.phase := rfl
@[simp] theorem complete_cnt : (complete s).cnt = 0#32 := rfl
@[simp] theorem complete_polls : (complete s).polls = s.polls := rfl
@[simp] theorem complete_sync : (complete s).sync = s.sync := rfl
@[simp] theorem complete_dTmp : (complete s).dTmp = s.dTmp := rfl
@[simp] theorem complete_fvQ : (complete s).fvQ = s.fvQ := rfl
@[simp] theorem complete_pulseBit : (complete s).pulseBit = s.pulseBit := rfl
@[simp] theorem complete_fresh : (complete s).fresh = s.fresh := rfl
@[simp] theorem complete_inputs : (complete s).inputs = s.inputs := rfl
@[simp] theorem complete_edges : (complete s).edges = s.edges := rfl
@[simp] theorem complete_rdata : (complete s).rdata = s.rdata := rfl
@[simp] theorem complete_pinEvents : (complete s).pinEvents = s.pinEvents := rfl
@[simp] theorem complete_edgeErr : (complete s).edgeErr = s.edgeErr := rfl

/-! ## recordFrame -/

@[simp] theorem recordFrame_build (t : U64) : (recordFrame t s).build = s.build := rfl
@[simp] theorem recordFrame_sckQ (t : U64) : (recordFrame t s).sckQ = s.sckQ := rfl
@[simp] theorem recordFrame_seq (t : U64) : (recordFrame t s).seq = s.seq := rfl
@[simp] theorem recordFrame_running (t : U64) : (recordFrame t s).running = s.running := rfl
@[simp] theorem recordFrame_lastBit (t : U64) : (recordFrame t s).lastBit = s.lastBit := rfl
@[simp] theorem recordFrame_doneP (t : U64) : (recordFrame t s).doneP = s.doneP := rfl
@[simp] theorem recordFrame_frameP (t : U64) : (recordFrame t s).frameP = s.frameP := rfl
@[simp] theorem recordFrame_errP (t : U64) : (recordFrame t s).errP = s.errP := rfl
@[simp] theorem recordFrame_errCode (t : U64) : (recordFrame t s).errCode = s.errCode := rfl
@[simp] theorem recordFrame_bitcnt (t : U64) : (recordFrame t s).bitcnt = s.bitcnt := rfl
@[simp] theorem recordFrame_ctrl (t : U64) : (recordFrame t s).ctrl = s.ctrl := rfl
@[simp] theorem recordFrame_offset (t : U64) : (recordFrame t s).offset = s.offset := rfl
@[simp] theorem recordFrame_scale (t : U64) : (recordFrame t s).scale = s.scale := rfl
@[simp] theorem recordFrame_settle (t : U64) : (recordFrame t s).settle = s.settle := rfl
@[simp] theorem recordFrame_backoff (t : U64) : (recordFrame t s).backoff = s.backoff := rfl
@[simp] theorem recordFrame_interframe (t : U64) : (recordFrame t s).interframe = s.interframe := rfl
@[simp] theorem recordFrame_timeout (t : U64) : (recordFrame t s).timeout = s.timeout := rfl
@[simp] theorem recordFrame_arg (t : U64) : (recordFrame t s).arg = s.arg := rfl
@[simp] theorem recordFrame_acc (t : U64) : (recordFrame t s).acc = s.acc := rfl
@[simp] theorem recordFrame_raw (t : U64) : (recordFrame t s).raw = s.raw := rfl
@[simp] theorem recordFrame_value (t : U64) : (recordFrame t s).value = s.value := rfl
@[simp] theorem recordFrame_rate (t : U64) : (recordFrame t s).rate = frameRate s.build.tickHz (s.frameCount + 1#64) (t - s.startTime) := rfl
@[simp] theorem recordFrame_frameCount (t : U64) : (recordFrame t s).frameCount = s.frameCount + 1#64 := rfl
@[simp] theorem recordFrame_startTime (t : U64) : (recordFrame t s).startTime = s.startTime := rfl
@[simp] theorem recordFrame_op (t : U64) : (recordFrame t s).op = s.op := rfl
@[simp] theorem recordFrame_phase (t : U64) : (recordFrame t s).phase = s.phase := rfl
@[simp] theorem recordFrame_cnt (t : U64) : (recordFrame t s).cnt = s.cnt := rfl
@[simp] theorem recordFrame_polls (t : U64) : (recordFrame t s).polls = s.polls := rfl
@[simp] theorem recordFrame_sync (t : U64) : (recordFrame t s).sync = s.sync := rfl
@[simp] theorem recordFrame_dTmp (t : U64) : (recordFrame t s).dTmp = s.dTmp := rfl
@[simp] theorem recordFrame_fvQ (t : U64) : (recordFrame t s).fvQ = s.fvQ := rfl
@[simp] theorem recordFrame_pulseBit (t : U64) : (recordFrame t s).pulseBit = s.pulseBit := rfl
@[simp] theorem recordFrame_fresh (t : U64) : (recordFrame t s).fresh = s.fresh := rfl
@[simp] theorem recordFrame_inputs (t : U64) : (recordFrame t s).inputs = s.inputs := rfl
@[simp] theorem recordFrame_edges (t : U64) : (recordFrame t s).edges = s.edges := rfl
@[simp] theorem recordFrame_rdata (t : U64) : (recordFrame t s).rdata = s.rdata := rfl
@[simp] theorem recordFrame_pinEvents (t : U64) : (recordFrame t s).pinEvents = s.pinEvents := rfl
@[simp] theorem recordFrame_edgeErr (t : U64) : (recordFrame t s).edgeErr = s.edgeErr := rfl

/-! ## storeValue -/

@[simp] theorem storeValue_build (r : U24) : (storeValue r s).build = s.build := rfl
@[simp] theorem storeValue_sckQ (r : U24) : (storeValue r s).sckQ = s.sckQ := rfl
@[simp] theorem storeValue_seq (r : U24) : (storeValue r s).seq = s.seq := rfl
@[simp] theorem storeValue_running (r : U24) : (storeValue r s).running = s.running := rfl
@[simp] theorem storeValue_lastBit (r : U24) : (storeValue r s).lastBit = s.lastBit := rfl
@[simp] theorem storeValue_doneP (r : U24) : (storeValue r s).doneP = s.doneP := rfl
@[simp] theorem storeValue_frameP (r : U24) : (storeValue r s).frameP = s.frameP := rfl
@[simp] theorem storeValue_errP (r : U24) : (storeValue r s).errP = s.errP := rfl
@[simp] theorem storeValue_errCode (r : U24) : (storeValue r s).errCode = s.errCode := rfl
@[simp] theorem storeValue_bitcnt (r : U24) : (storeValue r s).bitcnt = s.bitcnt := rfl
@[simp] theorem storeValue_ctrl (r : U24) : (storeValue r s).ctrl = s.ctrl := rfl
@[simp] theorem storeValue_offset (r : U24) : (storeValue r s).offset = s.offset := rfl
@[simp] theorem storeValue_scale (r : U24) : (storeValue r s).scale = s.scale := rfl
@[simp] theorem storeValue_settle (r : U24) : (storeValue r s).settle = s.settle := rfl
@[simp] theorem storeValue_backoff (r : U24) : (storeValue r s).backoff = s.backoff := rfl
@[simp] theorem storeValue_interframe (r : U24) : (storeValue r s).interframe = s.interframe := rfl
@[simp] theorem storeValue_timeout (r : U24) : (storeValue r s).timeout = s.timeout := rfl
@[simp] theorem storeValue_arg (r : U24) : (storeValue r s).arg = s.arg := rfl
@[simp] theorem storeValue_acc (r : U24) : (storeValue r s).acc = s.acc := rfl
@[simp] theorem storeValue_raw (r : U24) : (storeValue r s).raw = s.raw := rfl
@[simp] theorem storeValue_value (r : U24) : (storeValue r s).value = calibrate r s.offset s.scale := rfl
@[simp] theorem storeValue_rate (r : U24) : (storeValue r s).rate = s.rate := rfl
@[simp] theorem storeValue_frameCount (r : U24) : (storeValue r s).frameCount = s.frameCount := rfl
@[simp] theorem storeValue_startTime (r : U24) : (storeValue r s).startTime = s.startTime := rfl
@[simp] theorem storeValue_op (r : U24) : (storeValue r s).op = s.op := rfl
@[simp] theorem storeValue_phase (r : U24) : (storeValue r s).phase = s.phase := rfl
@[simp] theorem storeValue_cnt (r : U24) : (storeValue r s).cnt = s.cnt := rfl
@[simp] theorem storeValue_polls (r : U24) : (storeValue r s).polls = s.polls := rfl
@[simp] theorem storeValue_sync (r : U24) : (storeValue r s).sync = s.sync := rfl
@[simp] theorem storeValue_dTmp (r : U24) : (storeValue r s).dTmp = s.dTmp := rfl
@[simp] theorem storeValue_fvQ (r : U24) : (storeValue r s).fvQ = s.fvQ := rfl
@[simp] theorem storeValue_pulseBit (r : U24) : (storeValue r s).pulseBit = s.pulseBit := rfl
@[simp] theorem storeValue_fresh (r : U24) : (storeValue r s).fresh = s.fresh := rfl
@[simp] theorem storeValue_inputs (r : U24) : (storeValue r s).inputs = s.inputs := rfl
@[simp] theorem storeValue_edges (r : U24) : (storeValue r s).edges = s.edges := rfl
@[simp] theorem storeValue_rdata (r : U24) : (storeValue r s).rdata = s.rdata := rfl
@[simp] theorem storeValue_pinEvents (r : U24) : (storeValue r s).pinEvents = s.pinEvents := rfl
@[simp] theorem storeValue_edgeErr (r : U24) : (storeValue r s).edgeErr = s.edgeErr := rfl

/-! ## clearPending -/

@[simp] theorem clearPending_build (v : Word) : (clearPending v s).build = s.build := rfl
@[simp] theorem clearPending_sckQ (v : Word) : (clearPending v s).sckQ = s.sckQ := rfl
@[simp] theorem clearPending_seq (v : Word) : (clearPending v s).seq = s.seq := rfl
@[simp] theorem clearPending_running (v : Word) : (clearPending v s).running = s.running := rfl
@[simp] theorem clearPending_lastBit (v : Word) : (clearPending v s).lastBit = s.lastBit := rfl
@[simp] theorem clearPending_doneP (v : Word) : (clearPending v s).doneP = (s.doneP && !v.getLsbD 8) := rfl
@[simp] theorem clearPending_frameP (v : Word) : (clearPending v s).frameP = (s.frameP && !v.getLsbD 9) := rfl
@[simp] theorem clearPending_errP (v : Word) : (clearPending v s).errP = (s.errP && !clearsErr v s) := rfl
@[simp] theorem clearPending_errCode (v : Word) : (clearPending v s).errCode = if clearsErr v s then .none else s.errCode := rfl
@[simp] theorem clearPending_bitcnt (v : Word) : (clearPending v s).bitcnt = s.bitcnt := rfl
@[simp] theorem clearPending_ctrl (v : Word) : (clearPending v s).ctrl = s.ctrl := rfl
@[simp] theorem clearPending_offset (v : Word) : (clearPending v s).offset = s.offset := rfl
@[simp] theorem clearPending_scale (v : Word) : (clearPending v s).scale = s.scale := rfl
@[simp] theorem clearPending_settle (v : Word) : (clearPending v s).settle = s.settle := rfl
@[simp] theorem clearPending_backoff (v : Word) : (clearPending v s).backoff = s.backoff := rfl
@[simp] theorem clearPending_interframe (v : Word) : (clearPending v s).interframe = s.interframe := rfl
@[simp] theorem clearPending_timeout (v : Word) : (clearPending v s).timeout = s.timeout := rfl
@[simp] theorem clearPending_arg (v : Word) : (clearPending v s).arg = s.arg := rfl
@[simp] theorem clearPending_acc (v : Word) : (clearPending v s).acc = s.acc := rfl
@[simp] theorem clearPending_raw (v : Word) : (clearPending v s).raw = s.raw := rfl
@[simp] theorem clearPending_value (v : Word) : (clearPending v s).value = s.value := rfl
@[simp] theorem clearPending_rate (v : Word) : (clearPending v s).rate = s.rate := rfl
@[simp] theorem clearPending_frameCount (v : Word) : (clearPending v s).frameCount = s.frameCount := rfl
@[simp] theorem clearPending_startTime (v : Word) : (clearPending v s).startTime = s.startTime := rfl
@[simp] theorem clearPending_op (v : Word) : (clearPending v s).op = s.op := rfl
@[simp] theorem clearPending_phase (v : Word) : (clearPending v s).phase = s.phase := rfl
@[simp] theorem clearPending_cnt (v : Word) : (clearPending v s).cnt = s.cnt := rfl
@[simp] theorem clearPending_polls (v : Word) : (clearPending v s).polls = s.polls := rfl
@[simp] theorem clearPending_sync (v : Word) : (clearPending v s).sync = s.sync := rfl
@[simp] theorem clearPending_dTmp (v : Word) : (clearPending v s).dTmp = s.dTmp := rfl
@[simp] theorem clearPending_fvQ (v : Word) : (clearPending v s).fvQ = s.fvQ := rfl
@[simp] theorem clearPending_pulseBit (v : Word) : (clearPending v s).pulseBit = s.pulseBit := rfl
@[simp] theorem clearPending_fresh (v : Word) : (clearPending v s).fresh = s.fresh := rfl
@[simp] theorem clearPending_inputs (v : Word) : (clearPending v s).inputs = s.inputs := rfl
@[simp] theorem clearPending_edges (v : Word) : (clearPending v s).edges = s.edges := rfl
@[simp] theorem clearPending_rdata (v : Word) : (clearPending v s).rdata = s.rdata := rfl
@[simp] theorem clearPending_pinEvents (v : Word) : (clearPending v s).pinEvents = s.pinEvents := rfl
@[simp] theorem clearPending_edgeErr (v : Word) : (clearPending v s).edgeErr = s.edgeErr := rfl

end Sys2Proof.Machine
end

