-- ==== Sys2Proof/Laws/Step.lean ====
section
/-! SUPPORT. What each part of an edge can do, said once: the offer of a command, the host's write, the block's own
offer, the sequencer's actions, and the step they make up. Later proofs cite these and unfold none of the parts. -/

namespace Sys2Proof.Machine

variable {s t : State}

@[simp] theorem andThen_next (u : State) (f : State → Host.Outcome State Fault Refusal) :
    andThen (.next u) f = f u := rfl

theorem busy_iff : busy s = true ↔ s.seq ≠ .idle := by simp [busy]

theorem not_busy_iff : busy s = false ↔ s.seq = .idle := by simp [busy]

theorem waitEnds_iff : waitEnds s = true ↔ s.cnt.toNat ≤ 1 := by simp [waitEnds]

/-- The input levels depend on the inputs and the count of edges only. -/
theorem portIn_congr (hi : t.inputs = s.inputs) (he : t.edges = s.edges) : portIn t = portIn s := by
  simp [portIn, hi, he]

/-- What a host part can change in a busy block: pending bits, the error record and CTRL. -/
def hostTouched (s : State) (d f e : Bit) (c : ErrCode) (k : BitVec 3) (g : Option ErrCode) : State :=
  { s with doneP := d, frameP := f, errP := e, errCode := c, ctrl := k, edgeErr := g }

/-- Offering a command to a busy block records BUSY, or does nothing for NOP (R69, R101). -/
theorem exec_of_busy (i : Instr) (h : busy s = true) :
    exec i s = .next (if i = .nop then s else raiseErr .busy s) := by
  cases i <;>
    simp [exec, execNop, execPulse, execReadFrame, execDecode, execCalibrate, execRecordRate, execAcquire, execRun,
      offer, h]

/-- Offering a command answers a next state in every state: no offer faults or is refused (R69, R107). -/
theorem exec_next (i : Instr) (s : State) : ∃ t, exec i s = .next t := by
  cases i <;> exact ⟨_, rfl⟩

/-- A host write answers a next state in every state (R49, R107). -/
theorem regWrite_next (r : Reg) (d : U64) (s : State) : ∃ t, regWrite r d s = .next t := by
  cases r
  case cmd =>
    simp only [regWrite, offerWord]
    split
    · exact ⟨_, rfl⟩
    · exact exec_next _ s
  all_goals exact ⟨_, rfl⟩

/-- The host's part of an edge answers a next state in every state. -/
theorem hostPart_next (s : State) : ∃ t, hostPart s = .next t := by
  unfold hostPart
  split
  · exact regWrite_next _ _ s
  · exact ⟨s, rfl⟩

/-- The block's own offer answers a next state in every state. -/
theorem selfOffer_next (first : Bool) (s : State) : ∃ t, selfOffer first s = .next t := by
  unfold selfOffer
  split
  · exact exec_next _ s
  · exact ⟨s, rfl⟩

/-- Where the block makes no offer of its own, the edge goes on unchanged (R126). -/
theorem selfOffer_of_noSelfOffer (h : s.noSelfOffer) (u : State) (hu : u.build = s.build) :
    selfOffer s.fresh u = .next u := by
  unfold selfOffer
  rcases h with h | h <;> simp [hu, h]

/-- The host's part of an edge in a busy block: the write changes pending bits, the error record and CTRL at most; no
pending bit rises but ERR_P (R50, R69, R49). -/
theorem hostPart_of_busy (h : busy s = true) :
    ∃ d f e c k g, hostPart s = .next (hostTouched s d f e c k g)
      ∧ (d = true → s.doneP = true) ∧ (f = true → s.frameP = true) := by
  have keep : hostTouched s s.doneP s.frameP s.errP s.errCode s.ctrl s.edgeErr = s := rfl
  unfold hostPart
  split
  · generalize Reg.ofIdx (portIn s).regIdx = r
    generalize (portIn s).regWdata = w
    cases r
    case cmd =>
      simp only [regWrite, offerWord]
      split
      · exact ⟨s.doneP, s.frameP, _, _, s.ctrl, _, rfl, id, id⟩
      · rw [exec_of_busy _ h]
        split
        · exact ⟨s.doneP, s.frameP, s.errP, s.errCode, s.ctrl, s.edgeErr, rfl, id, id⟩
        · exact ⟨s.doneP, s.frameP, _, _, s.ctrl, _, rfl, id, id⟩
    case status =>
      exact ⟨_, _, _, _, s.ctrl, s.edgeErr, rfl, fun hd => by simp_all, fun hf => by simp_all⟩
    case ctrl => exact ⟨s.doneP, s.frameP, s.errP, s.errCode, _, s.edgeErr, rfl, id, id⟩
    case acc | raw | value | rate | frameCount | startTime =>
      exact ⟨s.doneP, s.frameP, s.errP, s.errCode, s.ctrl, s.edgeErr, rfl, id, id⟩
    all_goals
      simp only [regWrite, configWrite, h, if_true]
      exact ⟨s.doneP, s.frameP, _, _, s.ctrl, _, rfl, id, id⟩
  · exact ⟨s.doneP, s.frameP, s.errP, s.errCode, s.ctrl, s.edgeErr, rfl, id, id⟩

/-- A reset edge (R125). -/
theorem step_of_reset (h : (portIn s).rst = true) : step s = .next (resetEdge s) := by simp [step, h]

/-- An edge with `rst` 0 (R61). -/
theorem step_of_run (h : (portIn s).rst = false) : step s = runEdge s := by simp [step, h]

/-- An edge of an idle block at which it makes no offer of its own: the host's part alone. -/
theorem step_of_idle (hr : (portIn s).rst = false) (hb : busy s = false) (hs : s.noSelfOffer) :
    step s = andThen (hostPart (beginEdge s)) fun u => .next (finishEdge (regRdata s) u) := by
  rw [step_of_run hr, runEdge, selfOffer_of_noSelfOffer hs (beginEdge s) rfl, hb]
  rfl

/-- The block's own offer in a busy block records BUSY at most; in a state the invariant allows it is not made. -/
theorem selfOffer_of_busy (first : Bool) (h : busy s = true) :
    ∃ e c g, selfOffer first s = .next (hostTouched s s.doneP s.frameP e c s.ctrl g) := by
  unfold selfOffer
  split
  · exact ⟨_, _, _, exec_of_busy .run h⟩
  · exact ⟨s.errP, s.errCode, s.edgeErr, rfl⟩

/-- An edge of a busy block: pending bits, the error record and CTRL may change, and then the running command goes
on (R61). -/
theorem step_of_busy (hr : (portIn s).rst = false) (hb : busy s = true) :
    ∃ d f e c k g,
      step s = andThen (advance (hostTouched (beginEdge s) d f e c k g)) (fun u => .next (finishEdge (regRdata s) u))
        ∧ (d = true → s.doneP = true) ∧ (f = true → s.frameP = true) := by
  obtain ⟨e0, c0, g0, ho⟩ := selfOffer_of_busy (s := beginEdge s) s.fresh hb
  obtain ⟨d, f, e, c, k, g, hp, hd, hf⟩ := hostPart_of_busy
    (s := hostTouched (beginEdge s) (beginEdge s).doneP (beginEdge s).frameP e0 c0 (beginEdge s).ctrl g0) hb
  refine ⟨d, f, e, c, k, g, ?_, hd, hf⟩
  rw [step_of_run hr, runEdge, ho, hb, andThen_next, hp, andThen_next]
  rfl

/-- A Wait that goes on takes one cycle of CNT (R137). -/
theorem advance_of_waiting (h : 1 < s.cnt.toNat) : advance s = .next (countDown s) := by
  simp [advance, waitEnds, Nat.not_le.mpr h]

/-- A Wait that ends makes the next action (R137). -/
theorem advance_of_waitEnds (h : waitEnds s = true) : advance s = nextAction s := by simp [advance, h]

/-! ## The action that ends a Wait, by the place of the sequencer (R37) -/

theorem nextAction_init_high (h : s.seq = .init) (hp : s.phase = .high) : nextAction s = .next (idlePulseFall s) := by
  simp [nextAction, h, hp]

theorem nextAction_init_low (h : s.seq = .init) (hp : s.phase = .low) : nextAction s = .next (beginWait s) := by
  simp [nextAction, h, hp]

theorem nextAction_delay (h : s.seq = .delay) : nextAction s = .next (beginWait s) := by simp [nextAction, h]

theorem nextAction_backoff (h : s.seq = .backoff) : nextAction s = .next (beginPoll s) := by simp [nextAction, h]

theorem nextAction_poll_ready (h : s.seq = .poll) (hd : doutLevel s = false) :
    nextAction s = .next (beginClocking (pinRead s)) := by simp [nextAction, pollStep, h, hd]

theorem nextAction_poll_failed (h : s.seq = .poll) (hd : doutLevel s = true) :
    nextAction s = pollFailed (pinRead s) := by simp [nextAction, pollStep, h, hd]

theorem nextAction_pulse_high (h : s.seq = .clocking) (hp : s.phase = .high) (ho : s.op = .pulse) :
    nextAction s = .next (samplePulse s) := by simp [nextAction, clockingSample, h, hp, ho]

theorem nextAction_pulse_low (h : s.seq = .clocking) (hp : s.phase = .low) (ho : s.op = .pulse) :
    nextAction s = .next (commitPulse s) := by simp [nextAction, clockingEnd, h, hp, ho]

theorem nextAction_frame_high (h : s.seq = .clocking) (hp : s.phase = .high) (ho : readsFrame s.op = true) :
    nextAction s = .next (sampleFrame s) := by
  unfold nextAction clockingSample
  rw [h, hp]
  revert ho
  cases s.op <;> simp [readsFrame]

theorem nextAction_frame_low (h : s.seq = .clocking) (hp : s.phase = .low) (ho : readsFrame s.op = true) :
    nextAction s = .next (endFramePulse s) := by
  unfold nextAction clockingEnd
  rw [h, hp]
  revert ho
  cases s.op <;> simp [readsFrame]

theorem nextAction_process (h : s.seq = .process) : nextAction s = processEnd s := by simp [nextAction, h]

/-- An edge that ends the Wait of a running command makes its next action, whatever the host does (R61, R137). -/
theorem step_of_acts (h : s.acts) :
    ∃ d f e c k g,
      step s = andThen (nextAction (hostTouched (beginEdge s) d f e c k g))
          (fun u => .next (finishEdge (regRdata s) u))
        ∧ (d = true → s.doneP = true) ∧ (f = true → s.frameP = true) := by
  obtain ⟨hr, hb, hw⟩ := h
  obtain ⟨d, f, e, c, k, g, hs, hd, hf⟩ := step_of_busy hr hb
  exact ⟨d, f, e, c, k, g, by rw [hs, advance_of_waitEnds (s := hostTouched (beginEdge s) d f e c k g) hw], hd, hf⟩

/-- An edge inside the Wait of a running command takes one cycle of CNT, whatever the host does (R61, R137). -/
theorem step_of_waiting (hr : (portIn s).rst = false) (hb : busy s = true) (hc : 1 < s.cnt.toNat) :
    ∃ d f e c k g, step s = .next (finishEdge (regRdata s) (countDown (hostTouched (beginEdge s) d f e c k g)))
        ∧ (d = true → s.doneP = true) ∧ (f = true → s.frameP = true) := by
  obtain ⟨d, f, e, c, k, g, hs, hd, hf⟩ := step_of_busy hr hb
  exact ⟨d, f, e, c, k, g, by rw [hs, advance_of_waiting (s := hostTouched (beginEdge s) d f e c k g) hc]; rfl, hd, hf⟩

/-! ## Runs -/

theorem rst_of_noReset {n : Nat} (h : s.noReset (n + 1)) : (portIn s).rst = false := by
  unfold portIn
  cases hi : s.inputs with
  | nil => rfl
  | cons i l => exact h i (by simp [hi])

theorem noReset_mono {m n : Nat} (h : s.noReset n) (hl : m ≤ n) : s.noReset m :=
  fun i hi => h i ((List.take_sublist_take_left hl).mem hi)

theorem noReset_drop {m n : Nat} (h : s.noReset (m + n)) (ht : t.inputs = s.inputs.drop m) : t.noReset n := by
  intro i hi
  apply h
  rw [ht] at hi
  rw [List.take_add]
  simp [hi]

/-- A run of m + n edges is a run of m and then one of n, its events in that order. -/
theorem runEvents_add (m n : Nat) (s : State) :
    runEvents (m + n) s = (runEvents m s).bind fun r => (runEvents n r.2).map fun q => (r.1 ++ q.1, q.2) := by
  induction m generalizing s with
  | zero => simp [runEvents]
  | succ m ih =>
    rw [Nat.succ_add]
    simp only [runEvents]
    split
    · rename_i t _
      rw [ih]
      cases runEvents m t with
      | none => rfl
      | some r => cases h2 : runEvents n r.2 <;> simp [h2]
    · rfl
    · rfl

theorem runEvents_one (h : step s = .next t) : runEvents 1 s = some (t.pinEvents, t) := by simp [runEvents, h]

/-! ## Frames of whole procedures -/

/-- The fields a running command never writes: the build, the configuration, CTRL, START_TIME, SYNC, and the model's
own but the port events and the error record. -/
def untouched (s : State) :=
  (s.build, s.offset, s.scale, s.settle, s.backoff, s.interframe, s.timeout, s.arg, s.ctrl, s.startTime, s.sync,
    s.fresh, s.inputs, s.edges, s.rdata)

theorem untouched_beginDelay (s : State) : untouched (beginDelay s) = untouched s := by
  unfold beginDelay
  split <;> rfl

theorem untouched_endFramePulse (s : State) : untouched (endFramePulse s) = untouched s := by
  unfold endFramePulse
  split <;> rfl

/-- A commit that needs SCALE is made, or the block stops. -/
theorem withValidScale_next {f : State → State} (h : withValidScale f s = .next t) : t = f s := by
  unfold withValidScale at h
  split at h
  · cases h; rfl
  · cases h

theorem untouched_timeoutStep (h : timeoutStep s = .next t) : untouched t = untouched s := by
  unfold timeoutStep at h
  split at h
  · cases h; rfl
  · cases h; rfl
  · cases h; exact untouched_beginDelay _
  all_goals cases h

theorem untouched_processEnd (h : processEnd s = .next t) : untouched t = untouched s := by
  unfold processEnd at h
  split at h
  · cases h; rfl
  · cases h; rfl
  · cases withValidScale_next h; rfl
  · cases h; rfl
  · cases withValidScale_next h; rfl
  · cases withValidScale_next h; exact untouched_beginDelay _
  all_goals cases h

theorem untouched_nextAction (h : nextAction s = .next t) : untouched t = untouched s := by
  unfold nextAction at h
  split at h
  · cases h; rfl
  · split at h <;> cases h <;> rfl
  · cases h; rfl
  · unfold pollStep at h
    split at h
    · unfold pollFailed at h
      split at h
      · exact (untouched_timeoutStep h).trans rfl
      · cases h; rfl
    · cases h; rfl
  · cases h; rfl
  · split at h
    · unfold clockingSample at h
      split at h <;> cases h <;> rfl
    · unfold clockingEnd at h
      split at h
      · cases h; rfl
      · cases h; exact untouched_endFramePulse s
      · cases h; exact untouched_endFramePulse s
      · cases h; exact untouched_endFramePulse s
      all_goals cases h
  · exact untouched_processEnd h

/-- A running command leaves those fields alone (R50, R32, R40). -/
theorem untouched_advance (h : advance s = .next t) : untouched t = untouched s := by
  unfold advance at h
  split at h
  · exact untouched_nextAction h
  · cases h; rfl

/-- A running command leaves the configuration alone (R50). -/
theorem sameConfig_advance (h : advance s = .next t) : sameConfig s t := by
  have := untouched_advance h
  simp only [untouched, Prod.mk.injEq] at this
  obtain ⟨-, h1, h2, h3, h4, h5, h6, h7, -⟩ := this
  exact ⟨h1, h2, h3, h4, h5, h6, h7⟩

end Sys2Proof.Machine
end

