-- ==== Sys2Proof/Laws/Frames.lean ====
section
/-! SUPPORT. Which flags and registers the offer of a command, the host's part of an edge and a running command can
change, one structure for each, with the lemma that it holds. -/

namespace Sys2Proof.Machine

/-- Nothing changed is the configuration unchanged. -/
theorem sameConfig_refl (s : State) : sameConfig s s := ⟨rfl, rfl, rfl, rfl, rfl, rfl, rfl⟩

/-- What the offer of `i` in the state `u` can do to the flags, CTRL and the configuration, `v` being the state after
it (R69): RUNNING rises only where RUN is accepted, the error record changes only where the offer is rejected, and a busy
block's command goes on. -/
structure OfferFrame (i : Instr) (u v : State) : Prop where
  ctrl : v.ctrl = u.ctrl
  cfg : sameConfig u v
  d : v.doneP = u.doneP
  f : v.frameP = u.frameP
  run : v.running ≠ u.running → busy u = false ∧ v.running = true ∧ v.op = .run ∧ v.seq = .init
  err : v.errP ≠ u.errP ∨ v.errCode ≠ u.errCode → i ≠ .nop
      ∧ (busy u = true ∨ (i = .calibrate ∨ i = .acquire ∨ i = .run) ∧ f64Valid u.scale = false)
  inp : v.inputs = u.inputs ∧ v.edges = u.edges ∧ v.sync = u.sync ∧ v.build = u.build
  b : busy u = true → v.seq = u.seq ∧ v.op = u.op ∧ v.cnt = u.cnt ∧ v.polls = u.polls ∧ v.running = u.running

/-- An offer that changes nothing (NOP) keeps the frame. -/
theorem offerFrame_self (i : Instr) (u : State) : OfferFrame i u u :=
  ⟨rfl, sameConfig_refl u, rfl, rfl, by simp, by simp, by simp, by simp⟩

/-- The offer of every command keeps the frame. -/
theorem offerFrame_of_exec (i : Instr) {u v : State} (h : exec i u = .next v) : OfferFrame i u v := by
  have key : ∀ (j : Instr) (f : State → State), j ≠ .nop → v = offer j f u → (busy u = false →
      (needsScale j = true → scaleValid u = true) → ∀ w, w = f { u with op := j } →
      w.ctrl = u.ctrl ∧ sameConfig u w ∧ w.doneP = u.doneP ∧ w.frameP = u.frameP
        ∧ (w.running ≠ u.running → w.running = true ∧ w.op = .run ∧ w.seq = .init)
        ∧ w.errP = u.errP ∧ w.errCode = u.errCode ∧ w.inputs = u.inputs ∧ w.edges = u.edges ∧ w.sync = u.sync
        ∧ w.build = u.build) → OfferFrame j u v := by
    intro j f hj hv hf
    rcases offer_cases j f u with ⟨hb, ho⟩ | ⟨hb, hn, hs, ho⟩ | ⟨hb, hs, ho⟩
    · rw [hv, ho]
      exact ⟨rfl, sameConfig_refl u, rfl, rfl, fun h => absurd rfl h, fun _ => ⟨hj, Or.inl hb⟩, ⟨rfl, rfl, rfl, rfl⟩,
          fun _ => ⟨rfl, rfl, rfl, rfl, rfl⟩⟩
    · rw [hv, ho]
      refine ⟨rfl, sameConfig_refl u, rfl, rfl, fun h => absurd rfl h, fun _ => ⟨hj, Or.inr ⟨?_, hs⟩⟩,
          ⟨rfl, rfl, rfl, rfl⟩, fun _ => ⟨rfl, rfl, rfl, rfl, rfl⟩⟩
      revert hn; cases j <;> simp [needsScale]
    · rw [hv, ho]
      obtain ⟨a1, a2, a3, a4, a5, a6, a7, a8⟩ := hf hb hs _ rfl
      refine ⟨a1, a2, a3, a4, fun h => ⟨hb, a5 h⟩, ?_, a8, ?_⟩
      · intro h; simp [a6, a7] at h
      · intro h; rw [hb] at h; cases h
  cases i
  · cases h; exact offerFrame_self _ _
  all_goals
    cases h
    refine key _ _ (by decide) rfl fun hb hs w hw => by
      subst hw
      refine ⟨rfl, sameConfig_refl u, rfl, rfl, ?_, rfl, rfl, rfl, rfl, rfl, rfl⟩
      first | exact fun h => absurd rfl h | exact fun _ => ⟨rfl, rfl, rfl⟩

/-- What the host's part of an edge can do to the same registers (R49, R50, R18, R69). -/
structure HostFrame (u v : State) : Prop where
  ctrl : v.ctrl = if (portIn u).regWr = true
      ∧ Reg.ofIdx (portIn u).regIdx = .ctrl then (portIn u).regWdata.setWidth 3 else u.ctrl
  cfg : ¬ sameConfig u v → busy u = false ∧ (portIn u).regWr = true ∧ (Reg.ofIdx (portIn u).regIdx).access = .config
  d : v.doneP = true ↔ u.doneP = true ∧ ¬ (u.hostWrites .status ∧ (portIn u).regWdata.getLsbD 8 = true)
  f : v.frameP = true ↔ u.frameP = true ∧ ¬ (u.hostWrites .status ∧ (portIn u).regWdata.getLsbD 9 = true)
  run : v.running ≠ u.running → busy u = false ∧ v.running = true ∧ v.op = .run ∧ v.seq = .init
  err : v.errP ≠ u.errP ∨ v.errCode ≠ u.errCode → u.hostWriteRaises ∨ u.hostWrites .status
      ∧ (portIn u).regWdata.getLsbD 10 = true
  inp : v.inputs = u.inputs ∧ v.edges = u.edges ∧ v.sync = u.sync ∧ v.build = u.build
  b : busy u = true → v.seq = u.seq ∧ v.op = u.op ∧ v.cnt = u.cnt ∧ v.polls = u.polls ∧ v.running = u.running

/-- The host's part of every edge keeps the frame. -/
theorem hostFrame_of_hostPart {u v : State} (h : hostPart u = .next v) : HostFrame u v := by
  unfold hostPart at h
  by_cases hw : (portIn u).regWr = true
  · rw [if_pos hw] at h
    generalize hr : Reg.ofIdx (portIn u).regIdx = r at h
    have notst : r ≠ .status → ¬ u.hostWrites .status := by intro hn hh; exact hn (hr.symm.trans hh.2)
    have cfgc : ∀ (store : State → State), r.access = .config → v = configWrite store u → r ≠ .ctrl → r ≠ .status →
       ((store u).ctrl = u.ctrl ∧ (store u).doneP = u.doneP ∧ (store u).frameP = u.frameP
           ∧ (store u).running = u.running ∧ (store u).errP = u.errP ∧ (store u).errCode = u.errCode
           ∧ (store u).inputs = u.inputs ∧ (store u).edges = u.edges ∧ (store u).sync = u.sync
           ∧ (store u).build = u.build) → HostFrame u v := by
      intro store hacc hv hc hst ⟨a1, a2, a3, a4, a5, a6, a7, a8, a9, a10⟩
      have n1 := notst hst
      cases hb : busy u
      · rw [configWrite_idle store hb] at hv
        subst hv
        exact ⟨by rw [if_neg (by rw [hr]; simp [hc]), a1], fun _ => ⟨hb, hw, by rw [hr]; exact hacc⟩,
            by rw [a2]; simp [n1], by rw [a3]; simp [n1], fun h => absurd a4 h, fun h => by simp [a5, a6] at h,
            ⟨a7, a8, a9, a10⟩, fun h => by rw [hb] at h; cases h⟩
      · rw [configWrite_busy store hb] at hv
        subst hv
        exact ⟨by rw [if_neg (by rw [hr]; simp [hc])]; rfl, fun h => absurd (sameConfig_refl u) h, by simp [n1],
            by simp [n1], fun h => absurd rfl h, fun _ => Or.inl ⟨hw, Or.inr ⟨by rw [hr]; exact hacc, hb⟩⟩,
            ⟨rfl, rfl, rfl, rfl⟩, fun _ => ⟨rfl, rfl, rfl, rfl, rfl⟩⟩
    have roc : v = u → r ≠ .ctrl → r ≠ .status → HostFrame u v := by
      intro hv hc hst; subst hv; have n1 := notst hst
      exact ⟨by rw [if_neg (by rw [hr]; simp [hc])], fun h => absurd (sameConfig_refl _) h, by simp [n1],
          by simp [n1], fun h => absurd rfl h, fun h => by simp at h, ⟨rfl, rfl, rfl, rfl⟩,
          fun _ => ⟨rfl, rfl, rfl, rfl, rfl⟩⟩
    cases r
    case cmd =>
      have n1 := notst (by decide)
      simp only [regWrite, offerWord] at h
      split at h
      · rename_i r' hd; cases h
        exact ⟨by rw [if_neg (by rw [hr]; simp)]; rfl, fun h => absurd (sameConfig_refl u) h, by simp [n1],
            by simp [n1], fun h => absurd rfl h, fun _ => Or.inl ⟨hw, Or.inl ⟨hr, Or.inl ⟨r', hd⟩⟩⟩,
            ⟨rfl, rfl, rfl, rfl⟩, fun _ => ⟨rfl, rfl, rfl, rfl, rfl⟩⟩
      · rename_i i hd
        have e := offerFrame_of_exec i h
        exact ⟨by rw [if_neg (by rw [hr]; simp), e.ctrl], fun h => absurd e.cfg h, by rw [e.d]; simp [n1],
            by rw [e.f]; simp [n1], e.run, fun h => Or.inl ⟨hw, Or.inl ⟨hr, Or.inr ⟨i, hd, e.err h⟩⟩⟩, e.inp, e.b⟩
    case status =>
      cases h
      have y : u.hostWrites .status := ⟨hw, hr⟩
      refine ⟨by rw [if_neg (by rw [hr]; simp)]; rfl, fun h => absurd (sameConfig_refl u) h, by simp [y],
          by simp [y], fun h => absurd rfl h, fun h => ?_, ⟨rfl, rfl, rfl, rfl⟩, fun _ => ⟨rfl, rfl, rfl, rfl, rfl⟩⟩
      right
      refine ⟨y, ?_⟩
      by_contra hn
      have : clearsErr ((portIn u).regWdata.setWidth 32) u = false := by
        unfold clearsErr; rw [BitVec.getLsbD_setWidth]; simp only [Bool.not_eq_true] at hn; rw [hn]; simp
      simp [this] at h
    case ctrl =>
      cases h
      have n1 := notst (by decide)
      exact ⟨by rw [if_pos ⟨hw, hr⟩], fun h => absurd (sameConfig_refl u) h, by simp [n1], by simp [n1],
          fun h => absurd rfl h, fun h => by simp at h, ⟨rfl, rfl, rfl, rfl⟩, fun _ => ⟨rfl, rfl, rfl, rfl, rfl⟩⟩
    case acc | raw | value | rate | frameCount | startTime =>
      cases h
      exact roc rfl (by decide) (by decide)
    all_goals
      cases h
      exact cfgc _ rfl rfl (by decide) (by decide) ⟨rfl, rfl, rfl, rfl, rfl, rfl, rfl, rfl, rfl, rfl⟩
  · rw [if_neg hw] at h
    have e : v = u := by cases h; rfl
    subst e
    have n1 : ∀ r, ¬ State.hostWrites r v := fun r hh => hw hh.1
    exact ⟨by rw [if_neg (by simp [hw])], fun h => absurd (sameConfig_refl _) h, by simp [n1], by simp [n1],
        fun h => absurd rfl h, fun h => by simp at h, ⟨rfl, rfl, rfl, rfl⟩, fun _ => ⟨rfl, rfl, rfl, rfl, rfl⟩⟩

/-- What a running command can do to the flags at one edge: DONE_P is set where it returns to IDLE (R111),
FRAME_P at the commit of a frame's record (R100), and an error is recorded only at a poll that times out (R79). -/
structure AdvanceFrame (u v : State) : Prop where
  d : v.doneP = true ↔ busy v = false ∨ u.doneP = true
  f : v.frameP = true ↔ (waitEnds u = true ∧ u.seq = .process ∧ (u.op = .acquire ∨ u.op = .run)) ∨ u.frameP = true
  run : v.running = u.running
  err : v.errP ≠ u.errP ∨ v.errCode ≠ u.errCode → waitEnds u = true ∧ u.seq = .poll ∧ doutLevel u = true
      ∧ pollsTimedOut u.timeout (pollsAfter u.polls) = true

/-- A running command keeps the frame at every edge. -/
theorem advanceFrame_of_advance {u v : State} (hb : busy u = true) (h : advance u = .next v) : AdvanceFrame u v := by
  have hne : u.seq ≠ .idle := by simpa [busy] using hb
  unfold advance at h
  split at h
  · rename_i hw
    have bd : ∀ x : State, (beginDelay x).doneP = x.doneP ∧ (beginDelay x).frameP = x.frameP
        ∧ (beginDelay x).running = x.running ∧ (beginDelay x).errP = x.errP ∧ (beginDelay x).errCode = x.errCode
        ∧ busy (beginDelay x) = true := by
      intro x; unfold beginDelay; split <;> exact ⟨rfl, rfl, rfl, rfl, rfl, rfl⟩
    unfold nextAction at h
    split at h
    · simp_all
    · split at h <;> cases h <;> constructor <;> simp_all [busy, idlePulseFall, pulseFall, beginWait, beginPoll]
    · cases h; constructor <;> simp_all [busy, beginWait, beginPoll]
    · unfold pollStep at h
      split at h
      · rename_i hs hd
        unfold pollFailed at h
        split at h
        · rename_i hp
          unfold timeoutStep at h
          split at h
          · cases h; constructor <;> simp_all [busy, timeoutReadFrame]
          · cases h; constructor <;> simp_all [busy, timeoutAcquire]
          · cases h; constructor <;> simp_all [timeoutRun]
          all_goals cases h
        · cases h; constructor <;> simp_all [busy, beginBackoff]
      · cases h; constructor <;> simp_all [busy, beginClocking, pulseRise]
    · cases h; constructor <;> simp_all [busy, beginPoll]
    · split at h
      · unfold clockingSample at h
        split at h <;> cases h <;> constructor <;> simp_all [busy, samplePulse, sampleFrame, pulseFall]
      · unfold clockingEnd at h
        split at h
        · cases h; constructor <;> simp_all [busy, commitPulse]
        iterate 3
          · cases h; unfold endFramePulse; split <;> constructor <;> simp_all [busy, endFrame, beginProcess,
              pulseRise]
        all_goals cases h
    · unfold processEnd at h
      split at h
      · cases h; constructor <;> simp_all [busy, commitReadFrame]
      · cases h; constructor <;> simp_all [busy, commitDecode]
      · cases withValidScale_next h; constructor <;> simp_all [busy]
      · cases h; constructor <;> simp_all [busy, commitRecordRate]
      · cases withValidScale_next h; constructor <;> simp_all [busy, frameCommit]
      · cases withValidScale_next h; constructor <;> simp_all [frameCommit]
      all_goals cases h
  · rename_i hw
    cases h; constructor <;> simp_all [busy]

/-! ## STATE, SCK and the port events -/

/-- SCK changes only by a PinWrite of its new level, and no port event of the edge is lost (R55, R11). -/
structure PinFrame (u v : State) : Prop where
  sck : v.sckQ ≠ u.sckQ → .write v.sckQ ∈ v.pinEvents
  events : ∀ e ∈ u.pinEvents, e ∈ v.pinEvents

/-- Nothing changed keeps the frame. -/
theorem pinFrame_refl (u : State) : PinFrame u u := ⟨fun h => absurd rfl h, fun _ h => h⟩

/-- A state with the same SCK and the same port events keeps the frame. -/
theorem pinFrame_of_eq {u v : State} (hs : v.sckQ = u.sckQ) (he : v.pinEvents = u.pinEvents) : PinFrame u v :=
  ⟨fun h => absurd hs h, fun e h => by rw [he]; exact h⟩

/-- Two parts of one edge that keep the frame keep it together. -/
theorem pinFrame_trans {u v w : State} (h : PinFrame u v) (g : PinFrame v w) : PinFrame u w := by
  refine ⟨fun hn => ?_, fun e he => g.events e (h.events e he)⟩
  by_cases c : w.sckQ = v.sckQ
  · rw [c]; exact g.events _ (h.sck (by rwa [← c]))
  · exact g.sck c

/-- A PinWrite keeps the frame. -/
theorem pinFrame_pinWrite (b : Bit) (u : State) : PinFrame u (pinWrite b u) :=
  ⟨fun _ => by simp, fun e h => by simp [h]⟩

/-- A PinRead keeps the frame. -/
theorem pinFrame_pinRead (u : State) : PinFrame u (pinRead u) :=
  ⟨fun h => absurd rfl h, fun e h => by simp [pinRead, h]⟩

/-- What an offer does to STATE and SCK: they change only where a command other than NOP is taken by an idle block. -/
theorem place_of_exec {i : Instr} {u v : State} (h : exec i u = .next v) :
    PinFrame u v ∧ (v.seq ≠ u.seq ∨ v.sckQ ≠ u.sckQ → i ≠ .nop ∧ busy u = false) := by
  have key : ∀ (j : Instr) (f : State → State), j ≠ .nop → (∀ w, PinFrame w (f w)) → v = offer j f u →
      PinFrame u v ∧ (v.seq ≠ u.seq ∨ v.sckQ ≠ u.sckQ → j ≠ .nop ∧ busy u = false) := by
    intro j f hj hf hv
    rcases offer_cases j f u with ⟨_, ho⟩ | ⟨_, _, _, ho⟩ | ⟨hb, _, ho⟩ <;> rw [hv, ho]
    · exact ⟨pinFrame_of_eq rfl rfl, by simp⟩
    · exact ⟨pinFrame_of_eq rfl rfl, by simp⟩
    · exact ⟨pinFrame_trans (v := { u with op := j }) (pinFrame_of_eq rfl rfl) (hf _), fun _ => ⟨hj, hb⟩⟩
  cases i
  · cases h; exact ⟨pinFrame_refl _, by simp⟩
  all_goals
    cases h
    refine key _ _ (by decide) (fun w => ?_) rfl
    first
    | exact pinFrame_of_eq rfl rfl
    | exact ⟨fun _ => List.mem_append_right _ (List.mem_singleton.mpr rfl), fun e he => List.mem_append_left _ he⟩

/-- What the host's part of an edge does to STATE and SCK: they change only where the host offers an idle block a command
other than NOP. -/
theorem place_of_hostPart {u v : State} (h : hostPart u = .next v) :
    PinFrame u v ∧ (v.seq ≠ u.seq ∨ v.sckQ ≠ u.sckQ →
      busy u = false ∧ (portIn u).regWr = true ∧ Reg.ofIdx (portIn u).regIdx = .cmd
        ∧ ∃ i, decodeWord ((portIn u).regWdata.setWidth 32) = .command i ∧ i ≠ .nop) := by
  unfold hostPart at h
  split at h
  · rename_i hw
    generalize hr : Reg.ofIdx (portIn u).regIdx = r at h
    cases r
    case cmd =>
      simp only [regWrite, offerWord] at h
      split at h
      · cases h; exact ⟨pinFrame_of_eq rfl rfl, by simp⟩
      · rename_i i hd
        obtain ⟨hp, hs⟩ := place_of_exec h
        exact ⟨hp, fun hn => ⟨(hs hn).2, hw, rfl, i, hd, (hs hn).1⟩⟩
    all_goals
      cases h
      first
      | exact ⟨pinFrame_of_eq rfl rfl, by simp⟩
      | cases hb : busy u
        · rw [configWrite_idle _ hb]; exact ⟨pinFrame_of_eq rfl rfl, by simp⟩
        · rw [configWrite_busy _ hb]; exact ⟨pinFrame_of_eq rfl rfl, by simp⟩
  · cases h; exact ⟨pinFrame_refl _, by simp⟩

/-- DELAY, or the wait that begins in its place, makes no port event. -/
theorem pinFrame_beginDelay {u v : State} (h : PinFrame u v) : PinFrame u (beginDelay v) := by
  unfold beginDelay
  split <;> exact pinFrame_trans h (pinFrame_of_eq rfl rfl)

/-- What a running command does to STATE and SCK: they change only where its Wait ends (R137). -/
theorem place_of_advance {u v : State} (h : advance u = .next v) :
    PinFrame u v ∧ (v.seq ≠ u.seq ∨ v.sckQ ≠ u.sckQ → waitEnds u = true) := by
  have same : ∀ {w : State}, w.sckQ = u.sckQ → w.pinEvents = u.pinEvents → PinFrame u w := pinFrame_of_eq
  have read : ∀ {w : State}, w.sckQ = u.sckQ → w.pinEvents = (pinRead u).pinEvents → PinFrame u w := fun h1 h2 =>
    pinFrame_trans (pinFrame_pinRead u) (pinFrame_of_eq h1 h2)
  unfold advance at h
  split at h
  · rename_i hw
    refine ⟨?_, fun _ => hw⟩
    unfold nextAction at h
    split at h
    · cases h; exact pinFrame_refl u
    · split at h
      · cases h; exact pinFrame_trans (pinFrame_pinWrite false u) (pinFrame_of_eq rfl rfl)
      · cases h; exact same rfl rfl
    · cases h; exact same rfl rfl
    · unfold pollStep at h
      split at h
      · unfold pollFailed at h
        split at h
        · unfold timeoutStep at h
          split at h
          · cases h; exact read rfl rfl
          · cases h; exact read rfl rfl
          · cases h; exact pinFrame_beginDelay (read rfl rfl)
          all_goals cases h
        · cases h; exact read rfl rfl
      · cases h
        exact pinFrame_trans (pinFrame_pinRead u) (pinFrame_trans (pinFrame_pinWrite true _) (pinFrame_of_eq rfl rfl))
    · cases h; exact same rfl rfl
    · split at h
      · unfold clockingSample at h
        split at h <;> cases h <;>
          exact pinFrame_trans (pinFrame_pinRead u) (pinFrame_trans (pinFrame_pinWrite false _) (pinFrame_of_eq rfl rfl))
      · unfold clockingEnd at h
        split at h
        · cases h; exact same rfl rfl
        iterate 3
          · cases h
            unfold endFramePulse
            split
            · exact pinFrame_trans (pinFrame_pinWrite true u) (pinFrame_of_eq rfl rfl)
            · exact same rfl rfl
        all_goals cases h
    · unfold processEnd at h
      split at h
      · cases h; exact same rfl rfl
      · cases h; exact same rfl rfl
      · cases withValidScale_next h; exact same rfl rfl
      · cases h; exact same rfl rfl
      · cases withValidScale_next h; exact same rfl rfl
      · cases withValidScale_next h; exact pinFrame_beginDelay (same rfl rfl)
      all_goals cases h
  · cases h; exact ⟨pinFrame_of_eq rfl rfl, by simp⟩

end Sys2Proof.Machine
end

