-- ==== Sys2Proof/Laws/PerInstr.lean ====
section
/-! SUPPORT. Families of statements made command by command, about the command as syntax. -/

/-- WordFields: the word of a command has RSVD 0 and the command's own OPC, and the command is well formed (spec R66,
R67, R68). -/
def Sys2Proof.Laws.WordFields.Statement (i : Sys2Proof.Instr) : Prop :=
  Sys2Proof.rsvdOf (Sys2Proof.encode i) = 0#28
    ∧ Sys2Proof.opcOf (Sys2Proof.encode i) = Sys2Proof.opcodeOf i
    ∧ i.wellFormed = true

theorem Sys2Proof.Laws.WordFields.nop : Sys2Proof.Laws.WordFields.Statement .nop := by
  refine ⟨?_, ?_, ?_⟩ <;> decide

theorem Sys2Proof.Laws.WordFields.pulse : Sys2Proof.Laws.WordFields.Statement .pulse := by
  refine ⟨?_, ?_, ?_⟩ <;> decide

theorem Sys2Proof.Laws.WordFields.readFrame : Sys2Proof.Laws.WordFields.Statement .readFrame := by
  refine ⟨?_, ?_, ?_⟩ <;> decide

theorem Sys2Proof.Laws.WordFields.decode : Sys2Proof.Laws.WordFields.Statement .decode := by
  refine ⟨?_, ?_, ?_⟩ <;> decide

theorem Sys2Proof.Laws.WordFields.calibrate : Sys2Proof.Laws.WordFields.Statement .calibrate := by
  refine ⟨?_, ?_, ?_⟩ <;> decide

theorem Sys2Proof.Laws.WordFields.recordRate : Sys2Proof.Laws.WordFields.Statement .recordRate := by
  refine ⟨?_, ?_, ?_⟩ <;> decide

theorem Sys2Proof.Laws.WordFields.acquire : Sys2Proof.Laws.WordFields.Statement .acquire := by
  refine ⟨?_, ?_, ?_⟩ <;> decide

theorem Sys2Proof.Laws.WordFields.run : Sys2Proof.Laws.WordFields.Statement .run := by
  refine ⟨?_, ?_, ?_⟩ <;> decide
end

