-- ==== Sys2Proof/Tests/Slice0.lean ====
section
/-! SUPPORT. Tests. Expected values come from spec/: the vectors of 95_test_vectors.md (L1, L2, L3) or a hand reading of
a rule, named at each test. Then one witness for each obligation with hypotheses. -/

namespace Sys2Proof.Tests

open Sys2Proof.Machine

/-! ## Small states -/

/-- A build with round rates and no synchroniser stage, so that the level on `dout` is read at the edge itself. -/
def bench : Build := { Build.ofRates 1000000 1 100 1 with syncStages := 0 }

/-- A cycle with no host access. -/
def quiet (dout : Bit) (now : U64) : EdgeIn :=
  { rst := false, dout := dout, now := now, regIdx := 0#4, regWr := false, regRd := false, regWdata := 0#64 }

/-- A cycle with a host write. -/
def writes (r : Reg) (d : U64) (dout : Bit) : EdgeIn :=
  { quiet dout 0#64 with regIdx := r.idx, regWr := true, regWdata := d }

/-- A cycle in which the host writes a command. -/
def offers (i : Instr) : EdgeIn := writes .cmd ((encode i).setWidth 64) false

/-- The block in IDLE, its first edge after reset past. -/
def idle (ins : List EdgeIn) : State := { State.afterReset bench 0#64 ins 1 with fresh := false }

/-- The block running a command, its Wait at its last cycle. -/
def busyIn (i : Instr) (q : SeqState) (p : Phase) (ins : List EdgeIn) : State :=
  { idle ins with
    op := i, seq := q, phase := p, cnt := 1#32, sckQ := decide (p = .high), running := decide (i = .run) }

/-- A frame read and decoded, about to be committed. -/
def frameDone (i : Instr) (a : U24) (ins : List EdgeIn) : State :=
  { busyIn i .process .low ins with acc := a, bitcnt := 25#5, dTmp := decodeFrame a }

/-- A field of the state after one step. -/
def after {α : Type} (f : State → α) (s : State) : Option α := (nextOf (step s)).map f

/-- An outcome that is a next state with a property. -/
theorem next_with {o : Host.Outcome State Fault Refusal} {p : State → Bool} (h : (nextOf o).map p = some true) :
    ∃ t, o = .next t ∧ p t = true := by
  cases o with
  | next t => exact ⟨t, rfl, by simpa [nextOf] using h⟩
  | fault r => simp [nextOf] at h
  | refused r => simp [nextOf] at h

/-! ## Well-formedness refuses ill-formed terms (R7, R72) -/

theorem test_legal_bench : bench.legal = true := by decide
theorem test_illegal_clkHz : Build.legal { bench with clkHz := 0 } = false := by decide
theorem test_illegal_tickHz_zero : Build.legal { bench with tickHz := 0 } = false := by decide
theorem test_illegal_tickHz_large : Build.legal { bench with tickHz := 4294967296 } = false := by decide
theorem test_illegal_syncStages : Build.legal { bench with syncStages := 4 } = false := by decide
theorem test_illegal_calcLatency_zero : Build.legal { bench with calcLatency := 0 } = false := by decide
theorem test_illegal_calcLatency_large : Build.legal { bench with calcLatency := 65537 } = false := by decide
theorem test_illegal_settleRst : Build.legal { bench with settleRst := 0#32 } = false := by decide
theorem test_illegal_backoffRst : Build.legal { bench with backoffRst := 0#32 } = false := by decide

/-- ARG is 24 bits wide, so a 25-bit value is too wide for it (R72, R16). -/
theorem test_illformed_write : HostLine.wellFormed (.wr .arg 0x1000000) = false := by decide
theorem test_illformed_condition :
    HostLine.wellFormed (.ifGoto { reg := .status, bit := 32, value := true } "L") = false := by decide
theorem test_illformed_goto :
    hostProgramWellFormed [.ifGoto { reg := .status, bit := 0, value := true } "L"] = false := by decide
theorem test_wellFormed_calib : hostProgramWellFormed (HostPseudo.expand "L" (.calib 8661777)) = true := by decide

/-! ## Decoding: each word written out bit by bit from R66 and R68 -/

theorem test_decode_nop : decodeWord 0b00000000000000000000000000000000#32 = .command .nop := by decide
theorem test_decode_pulse : decodeWord 0b00000000000000000000000000000001#32 = .command .pulse := by decide
theorem test_decode_readFrame : decodeWord 0b00000000000000000000000000000010#32 = .command .readFrame := by decide
theorem test_decode_decode : decodeWord 0b00000000000000000000000000000011#32 = .command .decode := by decide
theorem test_decode_calibrate : decodeWord 0b00000000000000000000000000000100#32 = .command .calibrate := by decide
theorem test_decode_recordRate : decodeWord 0b00000000000000000000000000000101#32 = .command .recordRate := by decide
theorem test_decode_acquire : decodeWord 0b00000000000000000000000000000110#32 = .command .acquire := by decide
theorem test_decode_run : decodeWord 0b00000000000000000000000000000111#32 = .command .run := by decide
theorem test_decode_opc8 : decodeWord 0b00000000000000000000000000001000#32 = .illegal .unassignedOpcode := by decide
theorem test_decode_opcF : decodeWord 0b00000000000000000000000000001111#32 = .illegal .unassignedOpcode := by decide
theorem test_decode_rsvd_low : decodeWord 0b00000000000000000000000000010000#32 = .illegal .reservedBits := by decide
theorem test_decode_rsvd_high : decodeWord 0b10000000000000000000000000000111#32 = .illegal .reservedBits := by decide
theorem test_decodeTableWord : decodeTableWord 32 6 = some .acquire := by decide

/-- The step runs the word that withFetchWord places, as the first command after reset: STATUS as L2-P3 has it. -/
theorem test_withFetchWord :
    after statusWord ((State.afterReset bench 0#64 [] 1).withFetchWord 32 1) = some 0x4B#32 := by decide

/-! ## One step of each command -/

/-- R101: a NOP written while RUN runs changes no flag: STATUS is BUSY, DELAY, RUNNING. -/
theorem test_nop_while_running :
    after statusWord { busyIn .run .delay .low [offers .nop] with cnt := 9#32 } = some 0x15#32 := by decide

/-- L2-P3. -/
theorem test_pulse_accepted :
    after statusWord { idle [offers .pulse] with settle := 2#32 } = some 0x4B#32 := by decide

/-- L2-P2: the end of the pulse. -/
theorem test_pulse_commit :
    after statusWord { busyIn .pulse .clocking .low [quiet false 0#64] with pulseBit := true } = some 0x120#32 := by
  decide

/-- L2-F7: TIMEOUT 1 and one failed poll. -/
theorem test_readFrame_timeout :
    after statusWord { busyIn .readFrame .poll .low [quiet true 0#64] with timeout := 1#32 } = some 0x4500#32 := by
  decide

/-- L2-F10: the third data sample, 0 after 1 and 1. -/
theorem test_readFrame_third_sample :
    after (fun t => (t.bitcnt, t.acc))
        { busyIn .readFrame .clocking .high [quiet false 0#64] with bitcnt := 2#5, acc := 0x000003#24 }
      = some (3#5, 0x000006#24) := by decide

/-- L2-D6. -/
theorem test_decode_commit :
    after (fun t => t.raw) { busyIn .decode .process .low [quiet false 0#64] with arg := 0x842B11#24 }
      = some 0x042B11#24 := by decide

/-- L2-D7: bits above 23 of the write are dropped. -/
theorem test_decode_arg_write : after (fun t => t.arg) (idle [writes .arg 0xFF000001#64 false]) = some 0x000001#24 := by
  decide

/-- L2-C5. -/
theorem test_calibrate_commit :
    after (fun t => t.value) { busyIn .calibrate .process .low [quiet false 0#64] with raw := 0x2AAAAA#24 }
      = some 0x40B7DBDFD723AE5A#64 := by decide +kernel

/-- The SCALE table of L2-C: from reset with SCALE +0.0, CALIBRATE gives STATUS 0x00003400. -/
theorem test_calibrate_zero_scale :
    after statusWord { idle [offers .calibrate] with scale := 0#64 } = some 0x3400#32 := by decide

/-- L2-R1. -/
theorem test_recordRate_commit :
    after (fun t => (t.frameCount, t.rate))
        { busyIn .recordRate .process .low [quiet false 5#64] with frameCount := 9#64 }
      = some (10#64, 0x4000000000000000#64) := by decide +kernel

/-- L2-R5: the count wraps. -/
theorem test_recordRate_wrap :
    after (fun t => (t.frameCount, t.rate))
        { busyIn .recordRate .process .low [quiet false 9#64] with frameCount := 0xFFFFFFFFFFFFFFFF#64 }
      = some (0#64, 0#64) := by decide +kernel

/-- P3, the first ACQUIRE: START_TIME 100, `now` 102 at the commit. -/
theorem test_acquire_commit :
    after (fun t => (t.raw, t.value, t.frameCount, t.rate, statusWord t))
        { frameDone .acquire 0x042B11#24 [quiet false 102#64] with startTime := 100#64 }
      = some (0x842B11#24, 0x8000000000000000#64, 1#64, 0x3FE0000000000000#64, 0x00190300#32) := by decide +kernel

/-- R102, R69: ACQUIRE begins its wait: BUSY and POLL (3). -/
theorem test_acquire_accepted : after statusWord (idle [offers .acquire]) = some 0x7#32 := by decide

/-- L2-P6: BUSY, INIT (1), RUNNING and SCK in the cycle after RUN is accepted. -/
theorem test_run_accepted : after statusWord (idle [offers .run]) = some 0x53#32 := by decide

/-- P4, the edge e + 5: the second failed poll with TIMEOUT 2 and INTERFRAME 0 goes straight to POLL. -/
theorem test_run_timeout :
    after statusWord
        { busyIn .run .poll .low [quiet true 0#64] with timeout := 2#32, polls := 1#32, interframe := 0#32 }
      = some 0x4417#32 := by decide

/-! ## Registers, reset and errors -/

/-- L2-P5: SETTLE is WARL. -/
theorem test_settle_warl : after (fun t => t.settle) (idle [writes .settle 0#64 false]) = some 1#32 := by decide

/-- P1: a configuration write while busy is rejected and recorded. -/
theorem test_locked_offset :
    after (fun t => (t.offset, t.errCode))
        { busyIn .readFrame .backoff .low [writes .offset 5#64 true] with cnt := 2#32 }
      = some (8661777#32, ErrCode.busy) := by decide

/-- L2-Z1: START_TIME takes `now`, OFFSET its reset value, STATUS is 0. -/
theorem test_reset_edge :
    after (fun t => (t.startTime, t.offset, statusWord t, t.sckQ))
        (busyIn .run .init .high [{ quiet false 100#64 with rst := true }])
      = some (100#64, 0x00842B11#32, 0#32, false) := by decide

/-- R18: the fields of STATUS, all set at once. -/
theorem test_status_read :
    regRead .status
        { busyIn .run .backoff .low [] with
          lastBit := true, doneP := true, frameP := true, errP := true, errCode := .readyTimeout, bitcnt := 25#5 }
      = 0x00194739#64 := by decide

/-- P3: FRAME_P with IE_FRAME gives `irq`. -/
theorem test_irq_frame : irq { idle [] with frameP := true, ctrl := 2#3 } = true := by decide

/-- R126 with AUTO_RUN 1: RUN begins at the first edge, and a command written at it is BUSY: STATUS 0x53 with ERR_P and
code 2. -/
theorem test_autoRun :
    after statusWord (State.afterReset { bench with autoRun := true } 0#64 [offers .decode] 1) = some 0x2453#32 := by
  decide

/-- R40: with two stages, the oldest level comes out and the new one goes in. -/
theorem test_sync_shift : syncOut [true, false] false = true ∧ shiftSync [true, false] false = [false, false] := by
  decide

/-- The host program `clr` writes STATUS once (R73): one cycle clears DONE_P. -/
theorem test_host_clr :
    (match (runHost (HostPseudo.expand "L" .clr) 1 { rest := HostPseudo.expand "L" .clr, seen := [] }
        { idle [] with doneP := true }).2 with
      | .next t => t.doneP
      | .fault _ => true
      | .refused _ => true) = false := by decide

/-! ## Witnesses: a concrete state and operands that meet the hypotheses of each obligation, clause by clause -/

/-- The invariant as one Bool, clause by clause, so that `decide` can run it on a concrete state. -/
def invHolds (s : State) : Bool :=
  decide s.BuildOk && decide s.DelaysOk && decide s.SckOk && decide s.OpOk && decide s.CntOk && decide s.BitcntOk
    && decide s.PollsOk && decide s.RunningOk && decide s.ScaleOk && decide s.ErrOk && decide s.FreshOk
    && decide s.FrameValidOk

theorem inv_iff {s : State} : s.Inv ↔ invHolds s = true := by
  unfold State.Inv invHolds
  simp only [Bool.and_eq_true, decide_eq_true_eq, and_assoc]

/-- The block idle, with the default configuration, when the host offers `i`. -/
theorem offersCommand_idle (i : Instr) : (idle [offers i]).offersCommand i := by
  unfold State.offersCommand State.offersWord State.noSelfOffer
  cases i <;> decide

theorem inv_idle_offers (i : Instr) : (idle [offers i]).Inv := by
  simp only [inv_iff]
  cases i <;> decide

theorem noReset_offers (i : Instr) (n : Nat) : (idle [offers i]).noReset n := by
  intro j hj
  have : j ∈ [offers i] := List.mem_of_mem_take hj
  simp only [List.mem_singleton] at this
  rw [this]
  rfl

theorem witness_DecodingInvertsEncoding : ∃ (w : Word) (i : Instr), decodeWord w = .command i :=
  ⟨7#32, .run, by decide⟩

/-- The first and the last illegal OPC, and the lowest and the highest bit of RSVD; 7 is the last legal word. -/
theorem witness_IllegalWordsOnlyRaise :
    8 ≤ ((0x8#32).extractLsb' 0 4).toNat
      ∧ 8 ≤ ((0xF#32).extractLsb' 0 4).toNat
      ∧ (0x10#32).extractLsb' 4 28 ≠ 0#28
      ∧ (0x80000007#32).extractLsb' 4 28 ≠ 0#28
      ∧ ¬((7#32).extractLsb' 4 28 ≠ 0#28 ∨ 8 ≤ ((7#32).extractLsb' 0 4).toNat) := by decide

theorem witness_AcceptanceFollowsTheChecks :
    (∃ r, decodeWord 8#32 = .illegal r)
      ∧ decodeWord 0#32 = .command .nop
      ∧ (decodeWord 1#32 = .command .pulse ∧ busy (busyIn .run .poll .low []) = true)
      ∧ (decodeWord 7#32 = .command .run ∧ busy (idle []) = false ∧ f64Valid (0x7FF0000000000000#64) = false)
      ∧ (decodeWord 6#32 = .command .acquire ∧ busy (idle []) = false ∧ f64Valid (idle []).scale = true) :=
  ⟨⟨.unassignedOpcode, by decide⟩, by decide, by decide, by decide, by decide⟩

theorem witness_NopChangesNothing :
    (∃ s : State, s.offersWord 0x00000000#32 ∧ busy s = true)
      ∧ ∃ w : Word, w.extractLsb' 0 4 = 0#4 ∧ w.extractLsb' 4 28 ≠ 0#28 :=
  ⟨⟨busyIn .run .poll .low [offers .nop], by unfold State.offersWord; decide⟩, 0x10#32, by decide⟩

theorem witness_PulseStartsAtTheOffer : ∃ s : State, busy s = false ∧ f64Valid s.scale = false :=
  ⟨{ idle [] with scale := 0#64 }, by decide⟩

theorem witness_FrameCommandsStartWaiting :
    (∃ s : State, busy s = false ∧ f64Valid s.scale = true) ∧ ∃ s : State, busy s = false ∧ f64Valid s.scale = false :=
  ⟨⟨{ idle [] with scale := 1#64 }, by decide⟩, { idle [] with scale := 0x7FF0000000000001#64 }, by decide⟩

theorem witness_ProcessCommandsEnterProcess :
    (∃ s : State, busy s = false ∧ f64Valid s.scale = true) ∧ ∃ s : State, busy s = false ∧ f64Valid s.scale = false :=
  ⟨⟨{ idle [] with scale := 0x7FEFFFFFFFFFFFFF#64 }, by decide⟩, { idle [] with scale := 0x8000000000000000#64 },
    by decide⟩

theorem witness_RunStartsWithTheIdlePulse :
    (∃ s : State, busy s = false ∧ f64Valid s.scale = true) ∧ ∃ s : State, busy s = false ∧ f64Valid s.scale = false :=
  ⟨⟨idle [], by decide⟩, { idle [] with scale := 0xFFF0000000000000#64 }, by decide⟩

theorem witness_StepRunsTheOfferedCommand :
    (∃ (s : State) (w : Word) (i : Instr), s.offersWord w ∧ decodeWord w = .command i ∧ busy s = true)
      ∧ ∃ (s : State) (w : Word) (i : Instr),
          s.offersWord w ∧ decodeWord w = .command i ∧ busy s = false ∧ s.noSelfOffer :=
  ⟨⟨busyIn .run .poll .low [offers .pulse], 1#32, .pulse, by unfold State.offersWord; decide⟩,
    idle [offers .acquire], 6#32, .acquire, by unfold State.offersWord State.noSelfOffer; decide⟩

/-- An illegal word, a command while busy, a command with an invalid SCALE, and a configuration write while busy. -/
theorem witness_RejectedWriteOnlyRecordsError :
    (∃ s t : State, (portIn s).rst = false ∧ (portIn s).regWr = true ∧ s.noSelfOffer
        ∧ Reg.ofIdx (portIn s).regIdx = .cmd
        ∧ (∃ r, decodeWord ((portIn s).regWdata.setWidth 32) = .illegal r) ∧ step s.withoutWrite = .next t)
      ∧ (∃ s t : State, (portIn s).rst = false ∧ (portIn s).regWr = true ∧ s.noSelfOffer
        ∧ Reg.ofIdx (portIn s).regIdx = .cmd
        ∧ (∃ i, decodeWord ((portIn s).regWdata.setWidth 32) = .command i ∧ i ≠ .nop)
        ∧ busy s = true ∧ step s.withoutWrite = .next t)
      ∧ (∃ s t : State, (portIn s).rst = false ∧ (portIn s).regWr = true ∧ s.noSelfOffer
        ∧ Reg.ofIdx (portIn s).regIdx = .cmd
        ∧ (∃ i, decodeWord ((portIn s).regWdata.setWidth 32) = .command i ∧ (i = .calibrate ∨ i = .acquire ∨ i = .run))
        ∧ busy s = false ∧ f64Valid s.scale = false ∧ step s.withoutWrite = .next t)
      ∧ ∃ s t : State, (portIn s).rst = false ∧ (portIn s).regWr = true ∧ s.noSelfOffer
        ∧ (Reg.ofIdx (portIn s).regIdx).access = .config ∧ busy s = true ∧ step s.withoutWrite = .next t := by
  refine ⟨⟨idle [writes .cmd 8#64 false], ?_⟩, ⟨busyIn .run .poll .low [offers .pulse], ?_⟩,
    ⟨{ idle [offers .run] with scale := 0#64 }, ?_⟩, ⟨busyIn .run .poll .low [writes .arg 1#64 true], ?_⟩⟩
  · obtain ⟨t, ht, -⟩ := next_with (o := step (idle [writes .cmd 8#64 false]).withoutWrite) (p := fun _ => true)
      (by decide)
    exact ⟨t, by decide, by decide, .inl rfl, by decide, ⟨.unassignedOpcode, by decide⟩, ht⟩
  · obtain ⟨t, ht, -⟩ := next_with (o := step (busyIn .run .poll .low [offers .pulse]).withoutWrite)
      (p := fun _ => true) (by decide)
    exact ⟨t, by decide, by decide, .inl rfl, by decide, ⟨.pulse, by decide⟩, by decide, ht⟩
  · obtain ⟨t, ht, -⟩ := next_with (o := step (State.withoutWrite { idle [offers .run] with scale := 0#64 }))
      (p := fun _ => true) (by decide)
    exact ⟨t, by decide, by decide, .inl rfl, by decide, ⟨.run, by decide⟩, by decide, by decide, ht⟩
  · obtain ⟨t, ht, -⟩ := next_with (o := step (busyIn .run .poll .low [writes .arg 1#64 true]).withoutWrite)
      (p := fun _ => true) (by decide)
    exact ⟨t, by decide, by decide, .inl rfl, by decide, by decide, ht⟩

theorem witness_RaisingRecordsTheLowerCode :
    (∃ s : State, s.edgeErr = none)
      ∧ (∃ s : State, s.edgeErr = some .busy)
      ∧ (∃ (v : Word) (s : State), v.getLsbD 10 = true ∧ s.edgeErr = none)
      ∧ ∃ (v : Word) (s : State), v.getLsbD 10 = true ∧ s.edgeErr ≠ none :=
  ⟨⟨idle [], rfl⟩, ⟨{ idle [] with edgeErr := some .busy }, rfl⟩, ⟨0x400#32, idle [], by decide⟩,
    0x400#32, { idle [] with edgeErr := some .readyTimeout }, by decide⟩

theorem witness_TimeoutMeetsBusyError :
    ∃ (s : State) (w : Word) (i : Instr), s.Inv ∧ s.acts ∧ s.op = .run ∧ s.seq = .poll ∧ doutLevel s = true
      ∧ pollsTimedOut s.timeout (pollsAfter s.polls) = true ∧ s.offersWord w ∧ decodeWord w = .command i ∧ i ≠ .nop :=
  ⟨{ busyIn .run .poll .low [writes .cmd 7#64 true] with timeout := 1#32 }, 7#32, .run, by
    simp only [inv_iff, State.acts, State.offersWord]
    decide⟩

theorem witness_StatusWriteClearsOnlyItsBits : ∃ s : State, s.edgeErr = none ∧ s.errP = true :=
  ⟨{ idle [] with errP := true, errCode := .busy }, by decide⟩

/-- The commit of ACQUIRE at an edge at which the host clears all pending bits, and a timeout at such an edge. -/
theorem witness_SetBeatsClear :
    (∃ s t u : State, (portIn s).rst = false ∧ (portIn s).regWr = true ∧ Reg.ofIdx (portIn s).regIdx = .status
        ∧ step s = .next t ∧ step { s.withoutWrite with doneP := false, frameP := false } = .next u
        ∧ u.doneP = true ∧ u.frameP = true)
      ∧ ∃ s t u : State, (portIn s).rst = false ∧ (portIn s).regWr = true ∧ Reg.ofIdx (portIn s).regIdx = .status
        ∧ step s = .next t ∧ step { s.withoutWrite with doneP := false, frameP := false } = .next u
        ∧ u.edgeErr ≠ none := by
  constructor
  · refine ⟨frameDone .acquire 0x042B11#24 [writes .status 0x700#64 false], ?_⟩
    generalize hs : frameDone .acquire 0x042B11#24 [writes .status 0x700#64 false] = s
    obtain ⟨t, ht, -⟩ := next_with (o := step s) (p := fun _ => true) (by rw [← hs]; decide +kernel)
    obtain ⟨u, hu, hp⟩ := next_with (o := step { s.withoutWrite with doneP := false, frameP := false })
      (p := fun u => u.doneP && u.frameP) (by rw [← hs]; decide +kernel)
    rw [Bool.and_eq_true] at hp
    exact ⟨t, u, by rw [← hs]; decide, by rw [← hs]; decide, by rw [← hs]; decide, ht, hu, hp.1, hp.2⟩
  · refine ⟨{ busyIn .run .poll .low [writes .status 0x700#64 true] with timeout := 1#32 }, ?_⟩
    generalize hs : ({ busyIn .run .poll .low [writes .status 0x700#64 true] with timeout := 1#32 } : State) = s
    obtain ⟨t, ht, -⟩ := next_with (o := step s) (p := fun _ => true) (by rw [← hs]; decide)
    obtain ⟨u, hu, hp⟩ := next_with (o := step { s.withoutWrite with doneP := false, frameP := false })
      (p := fun u => decide (u.edgeErr ≠ none)) (by rw [← hs]; decide)
    exact ⟨t, u, by rw [← hs]; decide, by rw [← hs]; decide, by rw [← hs]; decide, ht, hu, of_decide_eq_true hp⟩

/-- A completion with DONE_P 0 and with DONE_P 1 before it, and an edge of RUN. -/
theorem witness_DoneMarksTheReturnToIdle :
    (∃ s t : State, (portIn s).rst = false ∧ step s = .next t ∧ s.doneP = false ∧ t.doneP = true ∧ busy s = true
        ∧ busy t = false)
      ∧ (∃ s t : State, (portIn s).rst = false ∧ step s = .next t ∧ s.doneP = true ∧ busy s = true ∧ busy t = false)
      ∧ ∃ s t : State, (portIn s).rst = false ∧ step s = .next t ∧ s.Inv ∧ s.op = .run ∧ t.doneP = true := by
  refine ⟨?_, ?_, ?_⟩
  · obtain ⟨t, ht, hp⟩ := next_with (o := step (busyIn .decode .process .low [])) (p := fun t => t.doneP && !busy t)
      (by decide)
    rw [Bool.and_eq_true, Bool.not_eq_true'] at hp
    exact ⟨busyIn .decode .process .low [], t, by decide, ht, by decide, hp.1, by decide, hp.2⟩
  · obtain ⟨t, ht, hp⟩ := next_with (o := step { busyIn .decode .process .low [] with doneP := true })
      (p := fun t => !busy t) (by decide)
    exact ⟨{ busyIn .decode .process .low [] with doneP := true }, t, by decide, ht, by decide, by decide,
      by simpa using hp⟩
  · obtain ⟨t, ht, hp⟩ := next_with (o := step { busyIn .run .delay .low [] with doneP := true })
      (p := fun t => t.doneP) (by decide)
    exact ⟨{ busyIn .run .delay .low [] with doneP := true }, t, by decide, ht, by simp only [inv_iff]; decide, rfl,
      hp⟩

/-- A read alone, and a read with a write that changes the register read (R51). -/
theorem witness_HostReadHasNoSideEffect :
    (∃ (s t : State) (idx : BitVec 4), step (withHostAccess false true idx 0#64 s) = .next t)
      ∧ (∃ (s t : State) (idx : BitVec 4) (data : U64),
          step (withHostAccess true true idx data s) = .next t ∧ regRead (Reg.ofIdx idx) t ≠ regRead (Reg.ofIdx idx) s)
      ∧ ∃ s : State, (portIn s).rst = true ∧ (portIn s).regRd = true ∧ regRdata s ≠ 0#64 := by
  refine ⟨?_, ?_, idle [{ quiet false 0#64 with rst := true, regRd := true, regIdx := 0x3#4 }], by decide⟩
  · obtain ⟨t, ht, -⟩ := next_with (o := step (withHostAccess false true 0xF#4 0#64 (idle []))) (p := fun _ => true)
      (by decide)
    exact ⟨idle [], t, 0xF#4, ht⟩
  · obtain ⟨t, ht, hp⟩ := next_with (o := step (withHostAccess true true 0x3#4 5#64 (idle [])))
      (p := fun t => decide (regRead (Reg.ofIdx 0x3#4) t ≠ regRead (Reg.ofIdx 0x3#4) (idle []))) (by decide)
    exact ⟨idle [], t, 0x3#4, 5#64, ht, of_decide_eq_true hp⟩

/-- R51: a read of OFFSET in the cycle that writes 5 to it takes the old value, and the write takes effect. -/
theorem test_read_with_write :
    after (fun t => (t.rdata, t.offset)) (withHostAccess true true 0x3#4 5#64 (idle [])) = some (8661777#64, 5#32) := by
  decide

theorem witness_ConfigWritesObeyTheLock :
    (∃ s : State, busy s = false) ∧ (∃ (s : State) (r : Reg), busy s = true ∧ r.access = .config)
      ∧ ∃ s : State, (portIn s).rst = false ∧ (portIn s).regWr = true ∧ busy s = false ∧ s.noSelfOffer
        ∧ (Reg.ofIdx (portIn s).regIdx).access = .config :=
  ⟨⟨idle [], by decide⟩, ⟨busyIn .run .poll .low [], .offset, by decide⟩, idle [writes .offset 5#64 false],
    by unfold State.noSelfOffer; decide⟩

/-- A SETTLE of 0, whose low 32 bits alone count, and an ARG with bits above its width. -/
theorem witness_ConfigWriteReadsBack :
    (∃ (s t : State) (r : Reg) (d : U64), r.access = .config ∧ busy s = false ∧ regWrite r d s = .next t
        ∧ ((r = .settle ∨ r = .backoff) ∧ d.toNat % 2 ^ 32 = 0))
      ∧ ∃ (s t : State) (r : Reg) (d : U64), r.access = .config ∧ busy s = false ∧ regWrite r d s = .next t
        ∧ ¬((r = .settle ∨ r = .backoff) ∧ d.toNat % 2 ^ 32 = 0) :=
  ⟨⟨idle [], _, .settle, 0x100000000#64, by decide, by decide, rfl, by decide⟩,
    idle [], _, .arg, 0xFF000001#64, by decide, by decide, rfl, by decide⟩

theorem witness_ReadOnlyWritesAreIgnored : ∃ r : Reg, r.access = .readOnly := ⟨.startTime, rfl⟩

theorem witness_ConfigFixedWhileBusy :
    ∃ s t : State, (portIn s).rst = false ∧ busy s = true ∧ step s = .next t := by
  obtain ⟨t, ht, -⟩ := next_with (o := step (busyIn .run .delay .low [writes .scale 0#64 false])) (p := fun _ => true)
    (by decide)
  exact ⟨_, t, by decide, by decide, ht⟩

/-- Each clause's register changes at some edge. -/
theorem witness_RegistersChangeOnlyByTheirWriters :
    (∃ s t : State, (portIn s).rst = false ∧ step s = .next t ∧ t.raw ≠ s.raw)
      ∧ (∃ s t : State, (portIn s).rst = false ∧ step s = .next t ∧ t.value ≠ s.value)
      ∧ (∃ s t : State, (portIn s).rst = false ∧ step s = .next t ∧ t.frameCount ≠ s.frameCount)
      ∧ (∃ s t : State, (portIn s).rst = false ∧ step s = .next t ∧ t.acc ≠ s.acc)
      ∧ ∃ s t : State, (portIn s).rst = false ∧ step s = .next t ∧ t.lastBit ≠ s.lastBit := by
  refine ⟨⟨frameDone .acquire 1#24 [quiet false 0#64], ?_⟩, ⟨frameDone .acquire 1#24 [quiet false 0#64], ?_⟩,
    ⟨frameDone .acquire 1#24 [quiet false 0#64], ?_⟩,
    ⟨{ busyIn .readFrame .clocking .high [quiet true 0#64] with bitcnt := 23#5 }, ?_⟩,
    ⟨{ busyIn .pulse .clocking .low [quiet true 0#64] with pulseBit := true }, ?_⟩⟩
  · obtain ⟨t, ht, hp⟩ := next_with (o := step (frameDone .acquire 1#24 [quiet false 0#64]))
      (p := fun t => decide (t.raw ≠ (frameDone .acquire 1#24 [quiet false 0#64]).raw)) (by decide +kernel)
    exact ⟨t, by decide, ht, of_decide_eq_true hp⟩
  · obtain ⟨t, ht, hp⟩ := next_with (o := step (frameDone .acquire 1#24 [quiet false 0#64]))
      (p := fun t => decide (t.value ≠ (frameDone .acquire 1#24 [quiet false 0#64]).value)) (by decide +kernel)
    exact ⟨t, by decide, ht, of_decide_eq_true hp⟩
  · obtain ⟨t, ht, hp⟩ := next_with (o := step (frameDone .acquire 1#24 [quiet false 0#64]))
      (p := fun t => decide (t.frameCount ≠ (frameDone .acquire 1#24 [quiet false 0#64]).frameCount))
      (by decide +kernel)
    exact ⟨t, by decide, ht, of_decide_eq_true hp⟩
  · obtain ⟨t, ht, hp⟩ := next_with
      (o := step { busyIn .readFrame .clocking .high [quiet true 0#64] with bitcnt := 23#5 })
      (p := fun t => decide (t.acc ≠ 0#24)) (by decide)
    exact ⟨t, by decide, ht, of_decide_eq_true hp⟩
  · obtain ⟨t, ht, hp⟩ := next_with
      (o := step { busyIn .pulse .clocking .low [quiet true 0#64] with pulseBit := true })
      (p := fun t => decide (t.lastBit ≠ false)) (by decide)
    exact ⟨t, by decide, ht, of_decide_eq_true hp⟩

/-- A write to CTRL and none, a configuration register that changes, DONE_P and FRAME_P set together, RUNNING set, and
ERR_P changed by each of its causes. -/
theorem witness_FlagsChangeOnlyByTheirWriters :
    (∃ s t : State, (portIn s).rst = false ∧ step s = .next t ∧ s.hostWrites .ctrl ∧ t.ctrl ≠ s.ctrl)
      ∧ (∃ s t : State, (portIn s).rst = false ∧ step s = .next t ∧ t.offset ≠ s.offset)
      ∧ (∃ s t : State, (portIn s).rst = false ∧ step s = .next t ∧ ¬ s.hostWrites .ctrl
          ∧ s.doneP = false ∧ t.doneP = true ∧ s.frameP = false ∧ t.frameP = true)
      ∧ (∃ s t : State, (portIn s).rst = false ∧ step s = .next t ∧ t.running ≠ s.running)
      ∧ (∃ s t : State, (portIn s).rst = false ∧ step s = .next t ∧ s.timesOut ∧ t.errP ≠ s.errP)
      ∧ (∃ s t : State, (portIn s).rst = false ∧ step s = .next t ∧ s.hostWriteRaises ∧ t.errP ≠ s.errP)
      ∧ (∃ s t : State, (portIn s).rst = false ∧ step s = .next t ∧ s.hostWrites .status ∧ t.errP ≠ s.errP)
      ∧ (∃ s t : State, (portIn s).rst = false ∧ step s = .next t ∧ s.fresh = true ∧ s.build.autoRun = true
          ∧ t.errP ≠ s.errP)
      ∧ (∃ s t : State, (portIn s).rst = false ∧ step s = .next t ∧ busy s = false ∧ t.seq ≠ s.seq ∧ t.sckQ ≠ s.sckQ)
      ∧ ∃ s t : State, (portIn s).rst = false ∧ step s = .next t ∧ s.acts ∧ t.seq ≠ s.seq ∧ t.sckQ ≠ s.sckQ := by
  refine ⟨⟨idle [writes .ctrl 7#64 false], ?_⟩, ⟨idle [writes .offset 5#64 false], ?_⟩,
    ⟨frameDone .acquire 1#24 [quiet false 0#64], ?_⟩, ⟨idle [offers .run], ?_⟩,
    ⟨{ busyIn .run .poll .low [quiet true 0#64] with timeout := 1#32 }, ?_⟩,
    ⟨busyIn .run .delay .low [offers .pulse], ?_⟩,
    ⟨{ idle [writes .status 0x400#64 false] with errP := true, errCode := .busy }, ?_⟩,
    ⟨State.afterReset { bench with autoRun := true, scaleRst := 0#64 } 0#64 [quiet true 0#64] 1, ?_⟩,
    ⟨idle [offers .pulse], ?_⟩, ⟨busyIn .run .poll .low [quiet false 0#64], ?_⟩⟩
  · obtain ⟨t, ht, hp⟩ := next_with (o := step (idle [writes .ctrl 7#64 false])) (p := fun t => decide (t.ctrl ≠ 0#3))
      (by decide)
    exact ⟨t, by decide, ht, by unfold State.hostWrites; decide, of_decide_eq_true hp⟩
  · obtain ⟨t, ht, hp⟩ := next_with (o := step (idle [writes .offset 5#64 false]))
      (p := fun t => decide (t.offset ≠ (idle []).offset)) (by decide)
    exact ⟨t, by decide, ht, of_decide_eq_true hp⟩
  · obtain ⟨t, ht, hp⟩ := next_with (o := step (frameDone .acquire 1#24 [quiet false 0#64]))
      (p := fun t => t.doneP && t.frameP) (by decide +kernel)
    rw [Bool.and_eq_true] at hp
    exact ⟨t, by decide, ht, by unfold State.hostWrites; decide, by decide, hp.1, by decide, hp.2⟩
  · obtain ⟨t, ht, hp⟩ := next_with (o := step (idle [offers .run])) (p := fun t => decide (t.running ≠ false))
      (by decide)
    exact ⟨t, by decide, ht, of_decide_eq_true hp⟩
  · obtain ⟨t, ht, hp⟩ := next_with
      (o := step { busyIn .run .poll .low [quiet true 0#64] with timeout := 1#32 })
      (p := fun t => decide (t.errP ≠ false)) (by decide)
    exact ⟨t, by decide, ht, by unfold State.timesOut State.acts; decide, of_decide_eq_true hp⟩
  · obtain ⟨t, ht, hp⟩ := next_with (o := step (busyIn .run .delay .low [offers .pulse]))
      (p := fun t => decide (t.errP ≠ false)) (by decide)
    exact ⟨t, by decide, ht, ⟨by decide, .inl ⟨by decide, .inr ⟨.pulse, by decide⟩⟩⟩, of_decide_eq_true hp⟩
  · obtain ⟨t, ht, hp⟩ := next_with
      (o := step { idle [writes .status 0x400#64 false] with errP := true, errCode := .busy })
      (p := fun t => decide (t.errP ≠ true)) (by decide)
    exact ⟨t, by decide, ht, by unfold State.hostWrites; decide, of_decide_eq_true hp⟩
  · obtain ⟨t, ht, hp⟩ := next_with
      (o := step (State.afterReset { bench with autoRun := true, scaleRst := 0#64 } 0#64 [quiet true 0#64] 1))
      (p := fun t => decide (t.errP ≠ false)) (by decide)
    exact ⟨t, by decide, ht, by decide, by decide, of_decide_eq_true hp⟩
  · obtain ⟨t, ht, hp⟩ := next_with (o := step (idle [offers .pulse]))
      (p := fun t => decide (t.seq ≠ .idle ∧ t.sckQ ≠ false)) (by decide)
    exact ⟨t, by decide, ht, by decide, of_decide_eq_true hp⟩
  · obtain ⟨t, ht, hp⟩ := next_with (o := step (busyIn .run .poll .low [quiet false 0#64]))
      (p := fun t => decide (t.seq ≠ .poll ∧ t.sckQ ≠ false)) (by decide)
    exact ⟨t, by decide, ht, by unfold State.acts; decide, of_decide_eq_true hp⟩

theorem witness_IdleBlockStaysIdle :
    ∃ s : State, (portIn s).rst = false ∧ (portIn s).regWr = false ∧ busy s = false ∧ s.noSelfOffer :=
  ⟨{ idle [quiet true 0#64] with ctrl := 7#3, errP := true, errCode := .busy }, by
    unfold State.noSelfOffer
    decide⟩

theorem witness_ResetEdgeGivesResetValues :
    (∃ s t : State, s.fresh = true ∧ (portIn s).rst = false ∧ step s = .next t) ∧ ∃ s : State, (portIn s).rst = true := by
  obtain ⟨t, ht, -⟩ := next_with (o := step (State.afterReset bench 0#64 [quiet true 0#64] 1)) (p := fun _ => true)
    (by decide)
  exact ⟨⟨_, t, rfl, rfl, ht⟩, idle [{ quiet false 100#64 with rst := true }], rfl⟩

/-- AUTO_RUN 0; AUTO_RUN 1 with a valid SCALE and a host write; AUTO_RUN 1 with an invalid SCALE. -/
theorem witness_AutoRunOffersRunAfterReset :
    (∃ s : State, s.fresh = true ∧ s.seq = .idle ∧ (portIn s).rst = false ∧ s.build.autoRun = false
        ∧ (portIn s).regWr = false)
      ∧ (∃ s : State, s.fresh = true ∧ s.seq = .idle ∧ (portIn s).rst = false ∧ s.build.autoRun = true
        ∧ f64Valid s.scale = true ∧ (portIn s).regWr = true ∧ (Reg.ofIdx (portIn s).regIdx).access = .config)
      ∧ ∃ s : State, s.fresh = true ∧ s.seq = .idle ∧ (portIn s).rst = false ∧ s.build.autoRun = true
        ∧ f64Valid s.scale = false ∧ (portIn s).regWr = false :=
  ⟨⟨State.afterReset bench 0#64 [quiet true 0#64] 1, by decide⟩,
    ⟨State.afterReset { bench with autoRun := true } 0#64 [writes .timeout 1#64 false] 1, by decide⟩,
    State.afterReset { bench with autoRun := true, scaleRst := 0#64 } 0#64 [quiet true 0#64] 1, by decide⟩

theorem witness_ResetHasTheInvariant : ∃ b : Build, b.legal = true ∧ b.calcLatency = 65536 :=
  ⟨{ bench with calcLatency := 65536 }, by decide⟩

theorem witness_StepKeepsTheInvariant : ∃ s t : State, s.Inv ∧ step s = .next t ∧ t.seq ≠ s.seq := by
  obtain ⟨t, ht, hp⟩ := next_with (o := step (frameDone .run 1#24 [quiet false 0#64]))
    (p := fun t => decide (t.seq ≠ .process)) (by decide +kernel)
  exact ⟨_, t, by simp only [inv_iff]; decide, ht, of_decide_eq_true hp⟩

theorem witness_InvariantNeverStops : ∃ s : State, s.Inv ∧ s.seq = .process ∧ s.op = .run :=
  ⟨frameDone .run 1#24 [quiet false 0#64], by simp only [inv_iff]; decide⟩

/-- A run from reset into the HIGH half of a pulse. -/
theorem witness_SckIsHighOnlyInAPulse :
    ∃ (b : Build) (now : U64) (ins : List EdgeIn) (n : Nat) (s : State), b.legal = true
      ∧ Host.Core.run Sys2Proof.core n (State.afterReset b now ins 1) = .next s ∧ s.sckQ = true := by
  obtain ⟨s, hs, hp⟩ := next_with
    (o := Host.Core.run Sys2Proof.core 1 (State.afterReset bench 0#64 [offers .pulse] 1)) (p := fun s => s.sckQ)
    (by decide)
  exact ⟨bench, 0#64, [offers .pulse], 1, s, by decide, hs, hp⟩

theorem witness_WaitCountsDown :
    ∃ (s : State) (k : Nat), busy s = true ∧ k < s.cnt.toNat ∧ s.noReset k ∧ k + 1 = s.cnt.toNat :=
  ⟨{ busyIn .run .delay .low [] with cnt := 3#32 }, 2, by unfold State.noReset; decide⟩

theorem witness_ReadyPollStartsClocking :
    ∃ s : State, s.Inv ∧ s.acts ∧ s.seq = .poll ∧ doutLevel s = false :=
  ⟨busyIn .acquire .poll .low [quiet false 0#64], by simp only [inv_iff, State.acts]; decide⟩

/-- The failed poll that reaches TIMEOUT, by a command that ends and by RUN with and without a DELAY; one that does not
reach it; and TIMEOUT 0 with POLLS saturated. -/
theorem witness_FailedPollBacksOffOrTimesOut :
    ∀ s ∈ [{ busyIn .readFrame .poll .low [quiet true 0#64] with timeout := 2#32, polls := 1#32 },
        { busyIn .run .poll .low [quiet true 0#64] with timeout := 1#32, interframe := 0#32 },
        { busyIn .run .poll .low [quiet true 0#64] with timeout := 1#32 },
        { busyIn .acquire .poll .low [quiet true 0#64] with timeout := 2#32 },
        { busyIn .acquire .poll .low [quiet true 0#64] with polls := 0xFFFFFFFF#32 }],
      s.Inv ∧ s.acts ∧ s.seq = .poll ∧ doutLevel s = true ∧ (portIn s).regWr = false := by
  simp only [inv_iff, State.acts]
  decide

/-- TIMEOUT 1, and TIMEOUT 2 with a back-off of one cycle. -/
theorem witness_TimeoutAfterNFailedPolls :
    (∃ (s : State) (n : Nat), s.Inv ∧ s.seq = .poll ∧ s.polls = 0#32 ∧ (s.op = .readFrame ∨ s.op = .acquire)
        ∧ s.timeout = 1#32 ∧ n = s.timeout.toNat + (s.timeout.toNat - 1) * s.backoff.toNat ∧ n ≤ s.inputs.length
        ∧ (∀ i ∈ s.inputs.take n, i.rst = false ∧ i.regWr = false ∧ i.dout = true) ∧ ∀ b ∈ s.sync, b = true)
      ∧ ∃ (s : State) (n : Nat), s.Inv ∧ s.seq = .poll ∧ s.polls = 0#32 ∧ (s.op = .readFrame ∨ s.op = .acquire)
        ∧ s.timeout = 2#32 ∧ n = s.timeout.toNat + (s.timeout.toNat - 1) * s.backoff.toNat ∧ n ≤ s.inputs.length
        ∧ (∀ i ∈ s.inputs.take n, i.rst = false ∧ i.regWr = false ∧ i.dout = true) ∧ ∀ b ∈ s.sync, b = true :=
  ⟨⟨{ busyIn .readFrame .poll .low [quiet true 0#64] with timeout := 1#32 }, 1, by simp only [inv_iff]; decide⟩,
    { busyIn .acquire .poll .low [quiet true 0#64, quiet true 0#64, quiet true 0#64] with
      timeout := 2#32, backoff := 1#32 }, 3, by simp only [inv_iff]; decide⟩

theorem witness_WaitingNeverPulses :
    (∃ s t : State, (portIn s).rst = false ∧ s.seq = .process ∧ step s = .next t)
      ∧ ∃ s t : State, (portIn s).rst = false ∧ s.seq = .poll ∧ step s = .next t ∧ waitEnds s = true
        ∧ doutLevel s = false := by
  constructor
  · obtain ⟨t, ht, -⟩ := next_with (o := step (busyIn .decode .process .low [])) (p := fun _ => true) (by decide)
    exact ⟨_, t, by decide, rfl, ht⟩
  · obtain ⟨t, ht, -⟩ := next_with (o := step (busyIn .run .poll .low [quiet false 0#64])) (p := fun _ => true)
      (by decide)
    exact ⟨_, t, by decide, rfl, ht, by decide, by decide⟩

theorem witness_PulseWaveform :
    ∃ s : State, s.Inv ∧ s.offersCommand .pulse ∧ s.noReset (1 + 2 * s.settle.toNat) :=
  ⟨idle [offers .pulse], inv_idle_offers _, offersCommand_idle _, noReset_offers _ _⟩

theorem witness_IdlePulseWaveform :
    ∃ s : State, s.Inv ∧ s.offersCommand .run ∧ f64Valid s.scale = true ∧ s.noReset (1 + 2 * s.settle.toNat) :=
  ⟨idle [offers .run], inv_idle_offers _, offersCommand_idle _, by decide, noReset_offers _ _⟩

theorem witness_FrameMakesTwentyFivePulses :
    ∃ s : State, s.Inv ∧ s.acts ∧ s.seq = .poll ∧ doutLevel s = false ∧ s.noReset (1 + 50 * s.settle.toNat) :=
  ⟨busyIn .run .poll .low [quiet false 0#64], by simp only [inv_iff, State.acts, State.noReset]; decide⟩

theorem witness_FrameCommandsComplete :
    ∀ i ∈ [Instr.readFrame, Instr.acquire],
      ∃ s : State, s.Inv ∧ s.offersCommand i ∧ (i = .readFrame ∨ i = .acquire ∧ f64Valid s.scale = true)
        ∧ s.noReset (2 + 50 * s.settle.toNat + s.build.calcLatency) ∧ ∀ u, step s = .next u → doutLevel u = false := by
  have inputs : ∀ i, (idle [offers i, quiet false 0#64]).noReset (2 + 50 * 1 + 1) := by
    intro i j hj
    have : j ∈ [offers i, quiet false 0#64] := List.mem_of_mem_take hj
    simp only [List.mem_cons, List.not_mem_nil, or_false] at this
    rcases this with rfl | rfl <;> rfl
  intro i hi
  refine ⟨idle [offers i, quiet false 0#64], ?_, ?_, ?_, inputs i, ?_⟩
  · simp only [inv_iff]
    cases i <;> decide
  · unfold State.offersCommand State.offersWord State.noSelfOffer
    cases i <;> decide
  · revert i
    decide
  · intro u hu
    have : (nextOf (step (idle [offers i, quiet false 0#64]))).map doutLevel = some false := by cases i <;> decide
    rw [hu] at this
    simpa [nextOf] using this

theorem witness_ReadFrameCommit : ∃ s : State, s.acts ∧ s.seq = .process ∧ s.op = .readFrame :=
  ⟨frameDone .readFrame 1#24 [quiet false 0#64], by unfold State.acts; decide⟩

theorem witness_CalibrateCommit : ∃ s : State, s.Inv ∧ s.acts ∧ s.seq = .process ∧ s.op = .calibrate :=
  ⟨busyIn .calibrate .process .low [quiet false 0#64], by simp only [inv_iff, State.acts]; decide⟩

theorem witness_RecordRateCommit : ∃ s : State, s.acts ∧ s.seq = .process ∧ s.op = .recordRate :=
  ⟨busyIn .recordRate .process .low [quiet false 0#64], by unfold State.acts; decide⟩

theorem witness_AcquireCommit : ∃ s : State, s.Inv ∧ s.acts ∧ s.seq = .process ∧ s.op = .acquire :=
  ⟨frameDone .acquire 1#24 [quiet false 0#64], by simp only [inv_iff, State.acts]; decide⟩

/-- INTERFRAME 0, and not. -/
theorem witness_RunCommit :
    (∃ s : State, s.Inv ∧ s.acts ∧ s.seq = .process ∧ s.op = .run ∧ s.interframe = 0#32)
      ∧ ∃ s : State, s.Inv ∧ s.acts ∧ s.seq = .process ∧ s.op = .run ∧ s.interframe ≠ 0#32 :=
  ⟨⟨{ frameDone .run 1#24 [quiet false 0#64] with interframe := 0#32 }, by simp only [inv_iff, State.acts]; decide⟩,
    frameDone .run 1#24 [quiet false 0#64], by simp only [inv_iff, State.acts]; decide⟩

/-- The end of RUN's DELAY, and of a back-off of RUN and of READ_FRAME. -/
theorem witness_DelayAndBackoffEndInAPoll :
    (∃ s : State, s.Inv ∧ s.acts ∧ s.seq = .delay)
      ∧ (∃ s : State, s.Inv ∧ s.acts ∧ s.seq = .backoff ∧ s.op = .run)
      ∧ ∃ s : State, s.Inv ∧ s.acts ∧ s.seq = .backoff ∧ s.op = .readFrame :=
  ⟨⟨busyIn .run .delay .low [quiet true 0#64], by simp only [inv_iff, State.acts]; decide⟩,
    ⟨{ busyIn .run .backoff .low [quiet true 0#64] with polls := 1#32 }, by simp only [inv_iff, State.acts]; decide⟩,
    busyIn .readFrame .backoff .low [quiet true 0#64], by simp only [inv_iff, State.acts]; decide⟩

theorem witness_FrameValidMarksTheCommit :
    ∃ s t : State, step s = .next t ∧ s.acts ∧ s.seq = .process ∧ s.op = .run := by
  obtain ⟨t, ht, -⟩ := next_with (o := step (frameDone .run 1#24 [quiet false 0#64])) (p := fun _ => true)
    (by decide +kernel)
  exact ⟨_, t, ht, by unfold State.acts; decide, rfl, rfl⟩

theorem witness_ProcessCommandsComplete :
    ∀ i ∈ [Instr.decode, Instr.calibrate, Instr.recordRate],
      ∃ s : State, s.Inv ∧ s.offersCommand i ∧ s.noReset (1 + s.build.calcLatency)
        ∧ (i = .decode ∨ i = .calibrate ∧ f64Valid s.scale = true ∨ i = .recordRate) := by
  intro i hi
  refine ⟨idle [offers i], inv_idle_offers _, offersCommand_idle _, noReset_offers _ _, ?_⟩
  revert i
  decide

theorem witness_RunHoldsUntilReset :
    (∃ (s : State) (n : Nat), s.Inv ∧ s.running = true ∧ s.noReset n ∧ n = 2)
      ∧ ∃ s : State, (portIn s).rst = true ∧ s.running = true :=
  ⟨⟨busyIn .run .poll .low [quiet false 0#64, offers .nop], 2, by simp only [inv_iff, State.noReset]; decide⟩,
    busyIn .run .poll .low [{ quiet false 0#64 with rst := true }], by decide⟩

theorem witness_QuotientIsRoundedOnce : ∃ num den : Nat, num ≠ 0 ∧ den ≠ 0 ∧ ¬ den ∣ num := ⟨1, 3, by decide⟩

/-- The least and the largest valid SCALE, at raw = OFFSET and away from it. -/
theorem witness_CalibrateIsTheRoundedQuotient :
    f64Valid 0x0000000000000001#64 = true
      ∧ f64Valid 0x7FEFFFFFFFFFFFFF#64 = true
      ∧ f64Valid 0x8000000000000001#64 = true
      ∧ ((1#24).toNat : Int) ≠ (0#32).toInt
      ∧ ((1#24).toNat : Int) = (1#32).toInt := by decide

theorem witness_CalibrateIsZeroOnlyAtOffset :
    f64Valid 0x0000000000000001#64 = true ∧ f64Valid 0x7FEFFFFFFFFFFFFF#64 = true := by decide

theorem witness_CalibrateIsMonotone :
    ∃ (a b : U24) (scale : F64), f64Valid scale = true ∧ a.toNat ≤ b.toNat ∧ f64Sign scale = true ∧ a ≠ b :=
  ⟨0#24, 0xFFFFFF#24, 0xC08E02A3D70A3D71#64, by decide⟩

theorem witness_RateIsTheRoundedQuotient :
    ∀ tickHz ∈ [1, 4294967295],
      0 < tickHz ∧ tickHz ≤ 4294967295 ∧ ((0#64 : U64) = 0#64 ∨ (1#64 : U64) = 0#64)
        ∧ (0xFFFFFFFFFFFFFFFF#64 : U64) ≠ 0#64 := by decide

/-- No stage, and two. -/
theorem witness_SynchroniserDelaysDout :
    (∃ s t : State, s.BuildOk ∧ s.noReset s.build.syncStages
        ∧ Host.Core.run Sys2Proof.core s.build.syncStages s = .next t ∧ s.build.syncStages = 0)
      ∧ (∃ s t : State, s.BuildOk ∧ s.noReset s.build.syncStages
        ∧ Host.Core.run Sys2Proof.core s.build.syncStages s = .next t ∧ s.build.syncStages = 2)
      ∧ ∃ s t : State, (portIn s).rst = true ∧ step s = .next t := by
  refine ⟨⟨idle [], idle [], by decide, by unfold State.noReset; decide, rfl, rfl⟩, ?_,
    ⟨idle [{ quiet false 0#64 with rst := true }], _, rfl, rfl⟩⟩
  obtain ⟨t, ht, -⟩ := next_with
    (o := Host.Core.run Sys2Proof.core 2
      (State.afterReset { bench with syncStages := 2 } 0#64 [quiet false 0#64, quiet true 0#64] 1))
    (p := fun _ => true) (by decide)
  exact ⟨State.afterReset { bench with syncStages := 2 } 0#64 [quiet false 0#64, quiet true 0#64] 1, t, by decide,
    by unfold State.noReset; decide, ht, rfl⟩

theorem witness_CalibPseudoEncodes : ∃ r : Nat, r < 2 ^ 24 ∧ r = 0xFFFFFF := ⟨0xFFFFFF, by decide⟩

end Sys2Proof.Tests
end

section
/-! PROOFS. O50: the division of the model is `rne64` of the exact quotient (spec R12, R44). The result is written in
units of `2 ^ quotientUlp`: there the quotient is `inUlps`, the result is the integer `quotientSignificand`, and every
binary64 value is an integer too, or lies below the quotient's binade. -/

namespace Sys2Proof.Machine

/-! ## Patterns from a sign and magnitude bits -/

/-- The pattern with a sign and magnitude bits 62:0. -/
def f64OfMagnitude (neg : Bit) (mag : Nat) : F64 := BitVec.ofNat 64 ((if neg then 2 ^ 63 else 0) + mag)

theorem f64Inf_eq_ofMagnitude (neg : Bit) : f64Inf neg = f64OfMagnitude neg f64InfBits := rfl

theorem rneQuotient_eq_ofMagnitude (neg : Bit) {num : Nat} (den : Nat) (hn : num ≠ 0) :
    rneQuotient neg num den = f64OfMagnitude neg (quotientBits num den) := by
  simp [rneQuotient, f64OfMagnitude, hn]

section Fields

variable {mag : Nat} (neg : Bit) (h : mag < 2 ^ 63)
include h

theorem toNat_f64OfMagnitude : (f64OfMagnitude neg mag).toNat = (if neg then 2 ^ 63 else 0) + mag := by
  rw [f64OfMagnitude, BitVec.toNat_ofNat]
  split <;> omega

theorem f64Sign_ofMagnitude : f64Sign (f64OfMagnitude neg mag) = neg := by
  rw [f64Sign, ← BitVec.testBit_toNat, toNat_f64OfMagnitude neg h, Nat.testBit_eq_decide_div_mod_eq]
  cases neg
  · exact decide_eq_false (by rw [if_neg Bool.false_ne_true]; omega)
  · exact decide_eq_true (by rw [if_pos rfl]; omega)

theorem f64Exponent_ofMagnitude : f64Exponent (f64OfMagnitude neg mag) = mag / 2 ^ 52 := by
  rw [f64Exponent, BitVec.extractLsb'_toNat, toNat_f64OfMagnitude neg h, Nat.shiftRight_eq_div_pow]
  split <;> omega

theorem f64Fraction_ofMagnitude : f64Fraction (f64OfMagnitude neg mag) = mag % 2 ^ 52 := by
  rw [f64Fraction, BitVec.extractLsb'_toNat, toNat_f64OfMagnitude neg h, Nat.shiftRight_zero]
  split <;> omega

theorem lowBit_ofMagnitude : (f64OfMagnitude neg mag).getLsbD 0 = decide (mag % 2 = 1) := by
  rw [← BitVec.testBit_toNat, toNat_f64OfMagnitude neg h, Nat.testBit_zero, decide_eq_decide]
  split <;> omega

end Fields

/-- Adding a significand of up to 53 bits and a carry to the exponent field below it gives the pattern whose magnitude
is that significand in units of the last place. -/
theorem f64Value_ofMagnitude (neg : Bit) {e q : Nat} (hfin : e * 2 ^ 52 + q < f64InfBits) (hq : q ≤ 2 ^ 53)
    (hnorm : e ≠ 0 → 2 ^ 52 ≤ q) :
    f64Value (f64OfMagnitude neg (e * 2 ^ 52 + q)) = (if neg then -1 else 1) * (q * 2 ^ ((e : Int) - 1074)) := by
  have hlt : e * 2 ^ 52 + q < 2 ^ 63 := hfin.trans (by decide)
  rw [f64Value, f64Sign_ofMagnitude neg hlt, f64Significand, f64Power, f64Exponent_ofMagnitude neg hlt,
    f64Fraction_ofMagnitude neg hlt, mul_assoc]
  congr 1
  rcases lt_or_ge q (2 ^ 52) with hsub | hge
  · have he : e = 0 := by by_contra he; exact absurd (hnorm he) (by omega)
    subst he
    rw [if_pos (by omega), if_pos (by omega), show (0 * 2 ^ 52 + q) % 2 ^ 52 = q by omega]
    norm_num
  rcases hq.lt_or_eq with hlt53 | rfl
  · have hexp : (e * 2 ^ 52 + q) / 2 ^ 52 = e + 1 := by omega
    rw [hexp, if_neg (by omega), if_neg (by omega), show 2 ^ 52 + (e * 2 ^ 52 + q) % 2 ^ 52 = q by omega]
    congr 2
    push_cast
    ring
  · have hexp : (e * 2 ^ 52 + 2 ^ 53) / 2 ^ 52 = e + 2 := by omega
    rw [hexp, if_neg (by omega), if_neg (by omega), show (e * 2 ^ 52 + 2 ^ 53) % 2 ^ 52 = 0 by omega,
      show ((e + 2 : Nat) : Int) - 1075 = ((e : Int) - 1074) + 1 by push_cast; ring, zpow_add₀ (by norm_num)]
    push_cast
    ring

/-! ## Every binary64 value on the grid of a last place -/

theorem f64Significand_lt (y : F64) : f64Significand y < 2 ^ 53 := by
  have hfrac : f64Fraction y < 2 ^ 52 := (y.extractLsb' 0 52).isLt
  unfold f64Significand
  split <;> omega

theorem f64Power_ge (y : F64) : -1074 ≤ f64Power y := by
  unfold f64Power
  split <;> omega

/-- A step up in the exponent at least doubles a power of two. -/
theorem two_mul_zpow_le {u v : Int} (h : u < v) : 2 * (2 : ℚ) ^ u ≤ 2 ^ v := by
  rw [mul_comm, ← zpow_add_one₀ (by norm_num)]
  exact zpow_le_zpow_right₀ (by norm_num) h

/-- In units of 2^u, and with either sign taken out, a binary64 value is a whole number, or less than 2^52 where u is
above the least last place. -/
theorem f64Value_grid (neg : Bit) (y : F64) (u : Int) :
    ∃ z : ℚ, f64Value y = (if neg then -1 else 1) * (z * 2 ^ u)
      ∧ ((∃ k : ℤ, z = k) ∨ (z < 2 ^ 52 ∧ u ≠ -1074)) := by
  obtain ⟨m, hm, hy⟩ : ∃ m : ℤ, m < 2 ^ 53 ∧ f64Value y = (if neg then -1 else 1) * (m * 2 ^ f64Power y) := by
    have hlt := f64Significand_lt y
    refine ⟨if f64Sign y = neg then f64Significand y else -f64Significand y, by split <;> omega, ?_⟩
    rw [f64Value]
    cases neg <;> cases f64Sign y <;> simp
  rcases le_or_gt u (f64Power y) with hp | hp
  · refine ⟨m * 2 ^ (f64Power y - u).toNat, ?_, .inl ⟨m * 2 ^ (f64Power y - u).toNat, by push_cast; rfl⟩⟩
    have hsplit : (2 : ℚ) ^ f64Power y = 2 ^ (f64Power y - u).toNat * 2 ^ u := by
      rw [← zpow_natCast, Int.toNat_of_nonneg (by omega), ← zpow_add₀ (by norm_num), sub_add_cancel]
    rw [hy, hsplit, mul_assoc (m : ℚ)]
  · have hunit : (0 : ℚ) < 2 ^ u := by positivity
    have hleast := f64Power_ge y
    refine ⟨m * 2 ^ f64Power y / 2 ^ u, by rw [hy, div_mul_cancel₀ _ hunit.ne'], .inr ⟨?_, by omega⟩⟩
    rw [div_lt_iff₀ hunit]
    calc (m : ℚ) * 2 ^ f64Power y < 2 ^ 53 * 2 ^ f64Power y := by gcongr; exact_mod_cast hm
      _ = 2 ^ 52 * (2 * 2 ^ f64Power y) := by ring
      _ ≤ 2 ^ 52 * 2 ^ u := by gcongr; exact two_mul_zpow_le hp

/-- A distance in units of 2^u, whatever sign both numbers carry. -/
theorem abs_sub_in_units (neg : Bit) (a b : ℚ) (u : Int) :
    |(if neg then -1 else 1) * (a * 2 ^ u) - (if neg then -1 else 1) * (b * 2 ^ u)| = |a - b| * 2 ^ u := by
  have hunit : (0 : ℚ) < 2 ^ u := by positivity
  rw [← mul_sub, ← sub_mul, abs_mul, abs_mul, abs_of_pos hunit]
  cases neg <;> simp

/-- The nearest integer `q` to `x`, even at a tie, is as near as any integer, and nearer than what lies below an
integer `b` at or below `x`. -/
theorem nearest_on_grid {x z : ℚ} {q b : ℕ} (hq : |x - q| ≤ 1 / 2) (htie : |x - q| = 1 / 2 → q % 2 = 0)
    (hz : (∃ k : ℤ, z = k) ∨ (z < b ∧ b ≤ x)) :
    |x - q| ≤ |x - z| ∧ (|x - q| = |x - z| → z ≠ q → q % 2 = 0) := by
  have far : ∀ k : ℤ, (k : ℚ) ≠ q → 1 ≤ |x - q| + |x - k| := fun k hk => by
    have hone : (1 : ℚ) ≤ |(q : ℚ) - k| := by
      exact_mod_cast Int.one_le_abs (sub_ne_zero.mpr (by exact_mod_cast hk.symm : (q : ℤ) ≠ k))
    calc (1 : ℚ) ≤ |(q : ℚ) - k| := hone
      _ ≤ |(q : ℚ) - x| + |x - k| := abs_sub_le _ _ _
      _ = |x - q| + |x - k| := by rw [abs_sub_comm]
  have near : ∀ k : ℤ, |x - q| ≤ |x - k| := fun k => by
    by_cases hk : (k : ℚ) = q
    · rw [hk]
    · linarith [far k hk]
  rcases hz with ⟨k, rfl⟩ | ⟨hzb, hbx⟩
  · refine ⟨near k, fun heq hne => htie ?_⟩
    linarith [far k hne]
  · have hlt : |x - q| < |x - z| := by
      calc |x - q| ≤ |x - b| := mod_cast near b
        _ = x - b := abs_of_nonneg (by linarith)
        _ < x - z := by linarith
        _ ≤ |x - z| := le_abs_self _
    exact ⟨hlt.le, fun heq => absurd heq hlt.ne⟩

/-- A nearest integer, even at a tie, is below 2^53 exactly when the number is below the tie at 2^53. -/
theorem lt_pow_iff_of_nearest {x : ℚ} {q : Nat} (hq : |x - q| ≤ 1 / 2) (htie : |x - q| = 1 / 2 → q % 2 = 0) :
    q < 2 ^ 53 ↔ x < 2 ^ 53 - 1 / 2 := by
  obtain ⟨hlo, hhi⟩ := abs_le.mp hq
  constructor
  · intro hlt
    have hle : (q : ℚ) ≤ 2 ^ 53 - 1 := by
      rw [le_sub_iff_add_le]
      exact_mod_cast hlt
    refine lt_of_le_of_ne (by linarith) fun hx => ?_
    have hqeq : (q : ℚ) = 2 ^ 53 - 1 := by linarith
    have heven := htie (by rw [hx, hqeq]; norm_num)
    have hq' : q = 2 ^ 53 - 1 := by exact_mod_cast (by rw [hqeq]; norm_num : (q : ℚ) = ((2 ^ 53 - 1 : Nat) : ℚ))
    omega
  · intro hlt
    exact_mod_cast (by linarith : (q : ℚ) < 2 ^ 53)

/-- The overflow threshold lies half a unit below the end of the largest finite binade (R92). -/
theorem overflowThreshold_eq : (2 : ℚ) ^ 1024 - 2 ^ 970 = (2 ^ 53 - 1 / 2) * 2 ^ (971 : ℤ) := by
  have hbig : (2 : ℚ) ^ 1024 = 2 ^ 54 * 2 ^ 970 := by rw [← pow_add]
  have hunit : (2 : ℚ) ^ (971 : ℤ) = 2 * 2 ^ 970 := (zpow_ofNat 2 971).trans (pow_succ' 2 970)
  rw [hbig, hunit]
  generalize (2 : ℚ) ^ 970 = half
  ring

/-! ## The quotient -/

section Quotient

variable {num den : Nat} (hn : num ≠ 0) (hd : den ≠ 0)
include hd

theorem quotient_eq_inUlps : (num : ℚ) / den = inUlps num den * 2 ^ quotientUlp num den := by
  have hd' : (den : ℚ) ≠ 0 := by exact_mod_cast hd
  rw [inUlps]
  field_simp

include hn

/-- The exponent field and the significand stay below infinity's pattern exactly below the overflow threshold (R92). -/
theorem quotientBits_lt_inf_iff :
    (quotientUlp num den + 1074).toNat * 2 ^ 52 + quotientSignificand num den < f64InfBits
      ↔ (num : ℚ) / den < 2 ^ 1024 - 2 ^ 970 := by
  obtain ⟨hX, hXnorm⟩ := inUlps_bounds hn hd
  obtain ⟨hq, hqnorm⟩ := quotientSignificand_bounds hn hd
  obtain ⟨hnear, htie⟩ := quotientSignificand_nearest num hd
  rw [quotient_eq_inUlps hd, f64InfBits, overflowThreshold_eq]
  generalize quotientUlp num den = u at *
  generalize inUlps num den = X at *
  generalize quotientSignificand num den = q at *
  have htop : (0 : ℚ) < 2 ^ (971 : ℤ) := by positivity
  rcases lt_trichotomy u 971 with hlt | rfl | hgt
  · have hunit := two_mul_zpow_le hlt
    generalize (2 : ℚ) ^ (971 : ℤ) = top at *
    refine iff_of_true (by omega) ?_
    calc X * 2 ^ u < 2 ^ 53 * 2 ^ u := by gcongr
      _ = 2 ^ 52 * (2 * 2 ^ u) := by ring
      _ ≤ 2 ^ 52 * top := by gcongr
      _ < (2 ^ 53 - 1 / 2) * top := by gcongr; norm_num
  · rw [mul_lt_mul_iff_left₀ htop, ← lt_pow_iff_of_nearest hnear htie]
    omega
  · have hunit := two_mul_zpow_le hgt
    generalize (2 : ℚ) ^ (971 : ℤ) = top at *
    have hq52 := hqnorm (by omega)
    refine iff_of_false (by omega) (not_lt.mpr ?_)
    calc (2 ^ 53 - 1 / 2) * top ≤ 2 ^ 53 * top := by gcongr; norm_num
      _ = 2 ^ 52 * (2 * top) := by ring
      _ ≤ 2 ^ 52 * 2 ^ u := by gcongr
      _ ≤ X * 2 ^ u := by gcongr; exact hXnorm (by omega)

/-- Below the overflow threshold the magnitude bits are the exponent field and the significand; from it on they are
infinity's. -/
theorem quotientBits_eq :
    quotientBits num den = if (num : ℚ) / den < 2 ^ 1024 - 2 ^ 970
      then (quotientUlp num den + 1074).toNat * 2 ^ 52 + quotientSignificand num den else f64InfBits := by
  have hiff := quotientBits_lt_inf_iff hn hd
  rw [quotientBits]
  split
  · exact min_eq_left (hiff.mpr ‹_›).le
  · exact min_eq_right (not_lt.mp (mt hiff.mp ‹_›))

/-- From the overflow threshold on the result is an infinity. -/
theorem rneQuotient_overflow (neg : Bit) (hover : (2 : ℚ) ^ 1024 - 2 ^ 970 ≤ num / den) :
    rneQuotient neg num den = f64Inf neg := by
  rw [rneQuotient_eq_ofMagnitude neg den hn, quotientBits_eq hn hd, if_neg hover.not_gt, f64Inf_eq_ofMagnitude]

section BelowThreshold

variable (neg : Bit) (hlt : (num : ℚ) / den < 2 ^ 1024 - 2 ^ 970)
include hlt

/-- Below the overflow threshold the result is finite, its last fraction bit is the parity of the rounded significand,
and its value is that significand in units of the last place. -/
theorem rneQuotient_finite :
    f64Finite (rneQuotient neg num den)
      ∧ (rneQuotient neg num den).getLsbD 0 = decide (quotientSignificand num den % 2 = 1)
      ∧ f64Value (rneQuotient neg num den)
          = (if neg then -1 else 1) * (quotientSignificand num den * 2 ^ quotientUlp num den) := by
  obtain ⟨hq, hqnorm⟩ := quotientSignificand_bounds hn hd
  have hu := quotientUlp_ge num den
  have hfin := (quotientBits_lt_inf_iff hn hd).mpr hlt
  rw [rneQuotient_eq_ofMagnitude neg den hn, quotientBits_eq hn hd, if_pos hlt]
  have hfield : (((quotientUlp num den + 1074).toNat : Nat) : Int) = quotientUlp num den + 1074 := by omega
  have hval := f64Value_ofMagnitude neg hfin hq fun he => hqnorm (by omega)
  rw [hfield, add_sub_cancel_right] at hval
  have h63 := hfin.trans (show f64InfBits < 2 ^ 63 by decide)
  refine ⟨?_, ?_, hval⟩
  · rw [f64Finite, f64Exponent_ofMagnitude neg h63]
    rw [f64InfBits] at hfin
    omega
  · rw [lowBit_ofMagnitude neg h63, decide_eq_decide]
    omega

/-- Below the overflow threshold no binary64 number is nearer to the signed quotient than the result, and another is
as near only when the rounded significand is even. -/
theorem rneQuotient_nearest (y : F64) :
    |(if neg then -1 else 1) * ((num : ℚ) / den) - f64Value (rneQuotient neg num den)|
        ≤ |(if neg then -1 else 1) * ((num : ℚ) / den) - f64Value y|
      ∧ (|(if neg then -1 else 1) * ((num : ℚ) / den) - f64Value (rneQuotient neg num den)|
            = |(if neg then -1 else 1) * ((num : ℚ) / den) - f64Value y| →
          f64Value y ≠ f64Value (rneQuotient neg num den) → quotientSignificand num den % 2 = 0) := by
  obtain ⟨-, -, hval⟩ := rneQuotient_finite hn hd neg hlt
  obtain ⟨z, hz, hgrid⟩ := f64Value_grid neg y (quotientUlp num den)
  obtain ⟨hnear, htie⟩ := quotientSignificand_nearest num hd
  obtain ⟨-, hnorm⟩ := inUlps_bounds hn hd
  have hunit : (0 : ℚ) < 2 ^ quotientUlp num den := by positivity
  obtain ⟨hle, heven⟩ := nearest_on_grid (b := 2 ^ 52) hnear htie
    (hgrid.imp_right fun ⟨hz52, hu⟩ => ⟨mod_cast hz52, mod_cast hnorm hu⟩)
  rw [hval, hz, quotient_eq_inUlps hd, abs_sub_in_units, abs_sub_in_units, mul_le_mul_iff_left₀ hunit,
    mul_left_inj' hunit.ne']
  exact ⟨hle, fun heq hne => heven heq fun h => hne (by rw [h])⟩

end BelowThreshold

end Quotient

/-- Settles O50: from the overflow threshold on the result is the infinity of the sign; below it the result is the
significand rounded in units of the last place, where every other binary64 number lies on the grid or below the
binade. -/
theorem quotientIsRoundedOnce : Obligations.QuotientIsRoundedOnce := by
  intro neg num den hn hd
  have hpos : (0 : ℚ) < num / den := by positivity
  have habs : |(if neg then -1 else 1) * ((num : ℚ) / den)| = num / den := by
    rw [abs_mul, abs_of_pos hpos]
    cases neg <;> simp
  have hneg : decide ((if neg then -1 else 1) * ((num : ℚ) / den) < 0) = neg := by
    cases neg <;> simp [hpos, hpos.le]
  rw [IsRne64, habs, hneg]
  rcases lt_or_ge ((num : ℚ) / den) (2 ^ 1024 - 2 ^ 970) with hlt | hover
  · obtain ⟨hfin, hlow, -⟩ := rneQuotient_finite hn hd neg hlt
    refine .inl ⟨hlt, hfin, fun y _ => ?_⟩
    obtain ⟨hle, heven⟩ := rneQuotient_nearest hn hd neg hlt y
    exact ⟨hle, fun heq hne => by rw [hlow, heven heq hne]; rfl⟩
  · exact .inr ⟨hover, rneQuotient_overflow hn hd neg hover⟩

end Sys2Proof.Machine
end

section
/-! PROOFS. O29, O28: the invariant of the block. Its clauses about the tuple of R37 are read off STATE by STATE
(`placeOk_…_iff`), what a running command does at one edge is said once (`Action`), and each part of an edge keeps
the invariant. -/

namespace Sys2Proof.Machine

variable {s t u v : State}

/-! ## The clauses of the invariant about the place of the sequencer -/

/-- The clauses of the invariant about the tuple of R37: SCK, OP, CNT, BITCNT and POLLS as STATE's procedures allow. -/
def State.PlaceOk (s : State) : Prop := s.SckOk ∧ s.OpOk ∧ s.CntOk ∧ s.BitcntOk ∧ s.PollsOk

theorem inv_iff_placeOk :
    s.Inv ↔ s.BuildOk ∧ s.DelaysOk ∧ s.PlaceOk ∧ s.RunningOk ∧ s.ScaleOk ∧ s.ErrOk ∧ s.FreshOk
      ∧ s.FrameValidOk := by
  simp only [State.Inv, State.PlaceOk, and_assoc]

/-- No pulse is in its high half (R130). -/
def State.IsLow (s : State) : Prop := s.sckQ = false ∧ s.phase = .low

/-- A Wait of at most `n` cycles goes on (R38, R137). -/
def State.InWait (n : Nat) (s : State) : Prop := s.cnt ≠ 0#32 ∧ s.cnt.toNat ≤ n

theorem ne_nop_of_readsFrame {i : Instr} (h : readsFrame i = true) : i ≠ .nop := by
  rintro rfl; cases h

theorem ne_pulse_of_readsFrame {i : Instr} (h : readsFrame i = true) : i ≠ .pulse := by
  rintro rfl; cases h

/-- Outside the pulses SCK is LOW (R130). -/
theorem sckOk_iff_isLow (hc : s.seq ≠ .clocking) (hi : s.seq ≠ .init) : s.SckOk ↔ s.IsLow := by
  unfold State.SckOk State.IsLow
  cases s.phase <;> simp [hc, hi]

/-! What the place is in each STATE. -/

theorem placeOk_idle_iff (h : s.seq = .idle) :
    s.PlaceOk ↔ s.IsLow ∧ s.bitcnt.toNat ≤ 25 ∧ s.op = .nop ∧ s.cnt = 0#32 := by
  rw [State.PlaceOk, sckOk_iff_isLow (by simp [h]) (by simp [h])]
  simp only [State.OpOk, State.CntOk, State.BitcntOk, State.PollsOk, h, reduceCtorEq]
  grind

theorem placeOk_init_iff (h : s.seq = .init) :
    s.PlaceOk ↔ (s.sckQ = true ↔ s.phase = .high) ∧ s.bitcnt.toNat ≤ 25 ∧ s.op = .run ∧ s.InWait s.settle.toNat := by
  have hnop : s.op = .run → s.op ≠ .nop := by rintro h; simp [h]
  simp only [State.PlaceOk, State.SckOk, State.OpOk, State.CntOk, State.BitcntOk, State.PollsOk, State.InWait, h,
    reduceCtorEq]
  grind

theorem placeOk_delay_iff (h : s.seq = .delay) :
    s.PlaceOk ↔ s.IsLow ∧ s.bitcnt.toNat ≤ 25 ∧ s.op = .run ∧ s.InWait s.interframe.toNat := by
  have hnop : s.op = .run → s.op ≠ .nop := by rintro h; simp [h]
  rw [State.PlaceOk, sckOk_iff_isLow (by simp [h]) (by simp [h])]
  simp only [State.OpOk, State.CntOk, State.BitcntOk, State.PollsOk, State.InWait, h, reduceCtorEq]
  grind

theorem placeOk_poll_iff (h : s.seq = .poll) :
    s.PlaceOk ↔ s.IsLow ∧ s.bitcnt.toNat ≤ 25 ∧ readsFrame s.op = true ∧ s.cnt = 1#32
      ∧ pollsTimedOut s.timeout s.polls = false := by
  have hnop := ne_nop_of_readsFrame (i := s.op)
  rw [State.PlaceOk, sckOk_iff_isLow (by simp [h]) (by simp [h])]
  simp only [State.OpOk, State.CntOk, State.BitcntOk, State.PollsOk, h, reduceCtorEq]
  grind

theorem placeOk_backoff_iff (h : s.seq = .backoff) :
    s.PlaceOk ↔ s.IsLow ∧ s.bitcnt.toNat ≤ 25 ∧ readsFrame s.op = true ∧ s.InWait s.backoff.toNat
      ∧ pollsTimedOut s.timeout s.polls = false := by
  have hnop := ne_nop_of_readsFrame (i := s.op)
  rw [State.PlaceOk, sckOk_iff_isLow (by simp [h]) (by simp [h])]
  simp only [State.OpOk, State.CntOk, State.BitcntOk, State.PollsOk, State.InWait, h, reduceCtorEq]
  grind

theorem placeOk_clocking_iff (h : s.seq = .clocking) :
    s.PlaceOk ↔ (s.sckQ = true ↔ s.phase = .high) ∧ s.bitcnt.toNat ≤ 25 ∧ (s.op = .pulse ∨ readsFrame s.op = true)
      ∧ s.InWait s.settle.toNat
      ∧ (readsFrame s.op = true → s.phase = .high → s.bitcnt.toNat ≤ 24)
      ∧ (readsFrame s.op = true → s.phase = .low → 1 ≤ s.bitcnt.toNat) := by
  have hnop := ne_nop_of_readsFrame (i := s.op)
  have hpulse : s.op = .pulse → s.op ≠ .nop := by rintro h; simp [h]
  simp only [State.PlaceOk, State.SckOk, State.OpOk, State.CntOk, State.BitcntOk, State.PollsOk, State.InWait, h,
    reduceCtorEq]
  grind

theorem placeOk_process_iff (h : s.seq = .process) :
    s.PlaceOk ↔ s.IsLow ∧ s.bitcnt.toNat ≤ 25 ∧ s.op ≠ .nop ∧ s.op ≠ .pulse ∧ s.InWait s.build.calcLatency
      ∧ (readsFrame s.op = true → s.bitcnt.toNat = 25 ∧ s.dTmp = decodeFrame s.acc) := by
  rw [State.PlaceOk, sckOk_iff_isLow (by simp [h]) (by simp [h])]
  simp only [State.OpOk, State.CntOk, State.BitcntOk, State.PollsOk, State.InWait, h, reduceCtorEq]
  grind

/-! ## The place after each action that enters a STATE -/

theorem pollsTimedOut_zero (n : Word) : pollsTimedOut n 0#32 = false := by
  simp [pollsTimedOut, ← BitVec.toNat_inj]

/-- CALC_LATENCY of a legal build fits CNT, and is at least 1 (R7, R38). -/
theorem calcCycles_inWait (h : s.build.legal = true) :
    calcCycles s ≠ 0#32 ∧ (calcCycles s).toNat ≤ s.build.calcLatency := by
  obtain ⟨hpos, hle⟩ : 1 ≤ s.build.calcLatency ∧ s.build.calcLatency ≤ 65536 := by
    simp only [Build.legal, Bool.and_eq_true, decide_eq_true_eq] at h
    exact h.1.1.2
  have heq : (calcCycles s).toNat = s.build.calcLatency := by
    rw [calcCycles, BitVec.toNat_ofNat]; omega
  exact ⟨fun h0 => by simp [h0] at heq; omega, heq.le⟩

theorem placeOk_complete (hl : s.IsLow) (hb : s.bitcnt.toNat ≤ 25) : (complete s).PlaceOk :=
  (placeOk_idle_iff rfl).mpr ⟨hl, hb, rfl, rfl⟩

theorem placeOk_beginPoll (hl : s.IsLow) (hb : s.bitcnt.toNat ≤ 25) (ho : readsFrame s.op = true)
    (hp : pollsTimedOut s.timeout s.polls = false) : (beginPoll s).PlaceOk :=
  (placeOk_poll_iff rfl).mpr ⟨hl, hb, ho, rfl, hp⟩

theorem placeOk_beginWait (hl : s.IsLow) (hb : s.bitcnt.toNat ≤ 25) (ho : readsFrame s.op = true) :
    (beginWait s).PlaceOk :=
  (placeOk_poll_iff rfl).mpr ⟨hl, hb, ho, rfl, pollsTimedOut_zero _⟩

theorem placeOk_beginBackoff (hl : s.IsLow) (hb : s.bitcnt.toNat ≤ 25) (ho : readsFrame s.op = true)
    (hp : pollsTimedOut s.timeout s.polls = false) (hd : s.DelaysOk) : (beginBackoff s).PlaceOk :=
  (placeOk_backoff_iff rfl).mpr ⟨hl, hb, ho, ⟨hd.2, Nat.le_refl _⟩, hp⟩

theorem placeOk_beginDelay (hl : s.IsLow) (hb : s.bitcnt.toNat ≤ 25) (ho : s.op = .run) :
    (beginDelay s).PlaceOk := by
  unfold beginDelay
  split
  · exact placeOk_beginWait hl hb (by rw [ho]; rfl)
  · rename_i hne
    exact (placeOk_delay_iff rfl).mpr ⟨hl, hb, ho, hne, Nat.le_refl _⟩

theorem placeOk_beginProcess (hl : s.IsLow) (hb : s.bitcnt.toNat ≤ 25) (hn : s.op ≠ .nop) (hp : s.op ≠ .pulse)
    (hleg : s.build.legal = true) (hf : readsFrame s.op = true → s.bitcnt.toNat = 25 ∧ s.dTmp = decodeFrame s.acc) :
    (beginProcess s).PlaceOk :=
  (placeOk_process_iff rfl).mpr ⟨hl, hb, hn, hp, calcCycles_inWait hleg, hf⟩

theorem placeOk_pulseRise_init (hq : s.seq = .init) (ho : s.op = .run) (hb : s.bitcnt.toNat ≤ 25) (hd : s.DelaysOk) :
    (pulseRise s).PlaceOk :=
  (placeOk_init_iff (s := pulseRise s) hq).mpr ⟨iff_of_true rfl rfl, hb, ho, hd.1, Nat.le_refl _⟩

theorem placeOk_pulseFall_init (hq : s.seq = .init) (ho : s.op = .run) (hb : s.bitcnt.toNat ≤ 25) (hd : s.DelaysOk) :
    (pulseFall s).PlaceOk :=
  (placeOk_init_iff (s := pulseFall s) hq).mpr ⟨iff_of_false nofun nofun, hb, ho, hd.1, Nat.le_refl _⟩

theorem placeOk_pulseRise_clocking (hq : s.seq = .clocking) (ho : s.op = .pulse ∨ readsFrame s.op = true)
    (hb : s.bitcnt.toNat ≤ 25) (hf : readsFrame s.op = true → s.bitcnt.toNat ≤ 24) (hd : s.DelaysOk) :
    (pulseRise s).PlaceOk :=
  (placeOk_clocking_iff (s := pulseRise s) hq).mpr
    ⟨iff_of_true rfl rfl, hb, ho, ⟨hd.1, Nat.le_refl _⟩, fun h _ => hf h, nofun⟩

theorem placeOk_pulseFall_clocking (hq : s.seq = .clocking) (ho : s.op = .pulse ∨ readsFrame s.op = true)
    (hb : s.bitcnt.toNat ≤ 25) (hf : readsFrame s.op = true → 1 ≤ s.bitcnt.toNat) (hd : s.DelaysOk) :
    (pulseFall s).PlaceOk :=
  (placeOk_clocking_iff (s := pulseFall s) hq).mpr
    ⟨iff_of_false nofun nofun, hb, ho, ⟨hd.1, Nat.le_refl _⟩, nofun, fun h _ => hf h⟩

theorem inWait_countDown {n : Nat} (h : s.InWait n) (hc : 1 < s.cnt.toNat) : (countDown s).InWait n := by
  have hdown : (s.cnt - 1#32).toNat = s.cnt.toNat - 1 := by bv_omega
  have hle := h.2
  refine ⟨fun h0 => ?_, by rw [countDown_cnt, hdown]; omega⟩
  rw [countDown_cnt] at h0
  rw [h0] at hdown
  simp at hdown
  omega

/-- A Wait that goes on keeps its place (R137). -/
theorem placeOk_countDown (h : s.PlaceOk) (hc : 1 < s.cnt.toNat) : (countDown s).PlaceOk := by
  cases hq : s.seq with
  | idle => simp [((placeOk_idle_iff hq).mp h).2.2.2] at hc
  | init =>
    obtain ⟨hl, hb, ho, hw⟩ := (placeOk_init_iff hq).mp h
    exact (placeOk_init_iff (s := countDown s) hq).mpr ⟨hl, hb, ho, inWait_countDown hw hc⟩
  | delay =>
    obtain ⟨hl, hb, ho, hw⟩ := (placeOk_delay_iff hq).mp h
    exact (placeOk_delay_iff (s := countDown s) hq).mpr ⟨hl, hb, ho, inWait_countDown hw hc⟩
  | poll => simp [((placeOk_poll_iff hq).mp h).2.2.2.1] at hc
  | backoff =>
    obtain ⟨hl, hb, ho, hw, hp⟩ := (placeOk_backoff_iff hq).mp h
    exact (placeOk_backoff_iff (s := countDown s) hq).mpr ⟨hl, hb, ho, inWait_countDown hw hc, hp⟩
  | clocking =>
    obtain ⟨hl, hb, ho, hw, hf⟩ := (placeOk_clocking_iff hq).mp h
    exact (placeOk_clocking_iff (s := countDown s) hq).mpr ⟨hl, hb, ho, inWait_countDown hw hc, hf⟩
  | process =>
    obtain ⟨hl, hb, hn, hp, hw, hf⟩ := (placeOk_process_iff hq).mp h
    exact (placeOk_process_iff (s := countDown s) hq).mpr ⟨hl, hb, hn, hp, inWait_countDown hw hc, hf⟩

/-! ## The actions of a running command -/

/-- The state in which a failed poll has been read and counted (R79). -/
def pollCounted (s : State) : State := { pinRead s with polls := pollsAfter s.polls }

/-- `Action u v`: the action that ends a Wait in `u` leaves `v`. One constructor for each place of the sequencer
(R37) and each way the action goes on from there. -/
inductive Action (u : State) : State → Prop
  | none (hq : u.seq = .idle) : Action u u
  | idlePulseFall (hq : u.seq = .init) (hp : u.phase = .high) : Action u (pulseFall u)
  | idlePulseEnd (hq : u.seq = .init) (hp : u.phase = .low) : Action u (beginWait u)
  | delayEnd (hq : u.seq = .delay) : Action u (beginWait u)
  | pollReady (hq : u.seq = .poll) (hd : doutLevel u = false) : Action u (beginClocking (pinRead u))
  | pollTimeout (hq : u.seq = .poll) (hd : doutLevel u = true)
      (ht : pollsTimedOut u.timeout (pollsAfter u.polls) = true) (ho : u.op = .readFrame ∨ u.op = .acquire) :
      Action u (complete (raiseErr .readyTimeout (pollCounted u)))
  | pollTimeoutRun (hq : u.seq = .poll) (hd : doutLevel u = true)
      (ht : pollsTimedOut u.timeout (pollsAfter u.polls) = true) (ho : u.op = .run) :
      Action u (beginDelay (raiseErr .readyTimeout (pollCounted u)))
  | pollBackoff (hq : u.seq = .poll) (hd : doutLevel u = true)
      (ht : pollsTimedOut u.timeout (pollsAfter u.polls) = false) : Action u (beginBackoff (pollCounted u))
  | backoffEnd (hq : u.seq = .backoff) : Action u (beginPoll u)
  | samplePulse (hq : u.seq = .clocking) (hp : u.phase = .high) (ho : u.op = .pulse) : Action u (samplePulse u)
  | commitPulse (hq : u.seq = .clocking) (hp : u.phase = .low) (ho : u.op = .pulse) : Action u (commitPulse u)
  | sampleFrame (hq : u.seq = .clocking) (hp : u.phase = .high) (ho : readsFrame u.op = true) :
      Action u (sampleFrame u)
  | nextPulse (hq : u.seq = .clocking) (hp : u.phase = .low) (ho : readsFrame u.op = true)
      (hb : u.bitcnt.toNat < 25) : Action u (pulseRise u)
  | endFrame (hq : u.seq = .clocking) (hp : u.phase = .low) (ho : readsFrame u.op = true)
      (hb : 25 ≤ u.bitcnt.toNat) : Action u (endFrame u)
  | commitReadFrame (hq : u.seq = .process) (ho : u.op = .readFrame) : Action u (commitReadFrame u)
  | commitDecode (hq : u.seq = .process) (ho : u.op = .decode) : Action u (commitDecode u)
  | commitCalibrate (hq : u.seq = .process) (ho : u.op = .calibrate) : Action u (complete (storeValue u.raw u))
  | commitRecordRate (hq : u.seq = .process) (ho : u.op = .recordRate) : Action u (commitRecordRate u)
  | commitAcquire (hq : u.seq = .process) (ho : u.op = .acquire) : Action u (complete (frameCommit u.dTmp u))
  | commitRun (hq : u.seq = .process) (ho : u.op = .run) : Action u (beginDelay (frameCommit u.dTmp u))

theorem action_of_pollFailed (hq : u.seq = .poll) (hd : doutLevel u = true) (h : pollFailed (pinRead u) = .next v) :
    Action u v := by
  unfold pollFailed at h
  split at h
  · rename_i ht
    unfold timeoutStep at h
    split at h
    · cases h; exact .pollTimeout hq hd ht (.inl ‹_›)
    · cases h; exact .pollTimeout hq hd ht (.inr ‹_›)
    · cases h; exact .pollTimeoutRun hq hd ht ‹_›
    all_goals cases h
  · rename_i ht
    cases h
    exact .pollBackoff hq hd (by simpa using ht)

theorem action_of_processEnd (hq : u.seq = .process) (h : processEnd u = .next v) : Action u v := by
  unfold processEnd at h
  split at h
  · cases h; exact .commitReadFrame hq ‹_›
  · cases h; exact .commitDecode hq ‹_›
  · cases withValidScale_next h; exact .commitCalibrate hq ‹_›
  · cases h; exact .commitRecordRate hq ‹_›
  · cases withValidScale_next h; exact .commitAcquire hq ‹_›
  · cases withValidScale_next h; exact .commitRun hq ‹_›
  all_goals cases h

theorem action_of_clockingSample (hq : u.seq = .clocking) (hp : u.phase = .high) (h : clockingSample u = .next v) :
    Action u v := by
  unfold clockingSample at h
  split at h
  · cases h; exact .samplePulse hq hp ‹_›
  iterate 3
    · rename_i ho
      cases h; exact .sampleFrame hq hp (by rw [ho]; rfl)
  all_goals cases h

theorem action_of_endFramePulse (hq : u.seq = .clocking) (hp : u.phase = .low) (ho : readsFrame u.op = true) :
    Action u (endFramePulse u) := by
  unfold endFramePulse
  split
  · exact .nextPulse hq hp ho ‹_›
  · exact .endFrame hq hp ho (Nat.le_of_not_lt ‹_›)

theorem action_of_clockingEnd (hq : u.seq = .clocking) (hp : u.phase = .low) (h : clockingEnd u = .next v) :
    Action u v := by
  unfold clockingEnd at h
  split at h
  · cases h; exact .commitPulse hq hp ‹_›
  iterate 3
    · rename_i ho
      cases h; exact action_of_endFramePulse hq hp (by rw [ho]; rfl)
  all_goals cases h

/-- What the action that ends a Wait can do, said once (R37, R137). -/
theorem action_of_nextAction (h : nextAction u = .next v) : Action u v := by
  unfold nextAction at h
  split at h
  case h_1 hq => cases h; exact .none hq
  case h_2 hq =>
    split at h
    · cases h; exact .idlePulseFall hq ‹_›
    · cases h; exact .idlePulseEnd hq ‹_›
  case h_3 hq => cases h; exact .delayEnd hq
  case h_4 hq =>
    unfold pollStep at h
    split at h
    · exact action_of_pollFailed hq ‹_› h
    · rename_i hd
      cases h; exact .pollReady hq (by simpa using hd)
  case h_5 hq => cases h; exact .backoffEnd hq
  case h_6 hq =>
    split at h
    · exact action_of_clockingSample hq ‹_› h
    · exact action_of_clockingEnd hq ‹_› h
  case h_7 hq => exact action_of_processEnd hq h

/-- One edge of a running command takes a cycle of its Wait, or ends it and makes the action there (R137). -/
theorem advance_cases (h : advance u = .next v) :
    (1 < u.cnt.toNat ∧ v = countDown u) ∨ (waitEnds u = true ∧ Action u v) := by
  unfold advance at h
  split at h
  · exact .inr ⟨‹_›, action_of_nextAction h⟩
  · rename_i hw
    cases h
    exact .inl ⟨by simpa [waitEnds] using hw, rfl⟩

/-! ## What an action does to the clauses of the invariant -/

/-- In the high half of a pulse of a frame there is still a bit to count (R34, R82). -/
theorem bitcnt_succ {b : BitVec 5} (h : b.toNat ≤ 24) : (b + 1#5).toNat = b.toNat + 1 := by bv_omega

/-- Every action keeps the clauses about the place of the sequencer. -/
theorem placeOk_of_action (hleg : u.build.legal = true) (hd : u.DelaysOk) (h : u.PlaceOk) (ha : Action u v) :
    v.PlaceOk := by
  cases ha with
  | none hq => exact h
  | idlePulseFall hq hp =>
    obtain ⟨-, hb, ho, -⟩ := (placeOk_init_iff hq).mp h
    exact placeOk_pulseFall_init hq ho hb hd
  | idlePulseEnd hq hp =>
    obtain ⟨hs, hb, ho, -⟩ := (placeOk_init_iff hq).mp h
    exact placeOk_beginWait ⟨by simpa [hp] using hs, hp⟩ hb (by rw [ho]; rfl)
  | delayEnd hq =>
    obtain ⟨hl, hb, ho, -⟩ := (placeOk_delay_iff hq).mp h
    exact placeOk_beginWait hl hb (by rw [ho]; rfl)
  | pollReady hq =>
    obtain ⟨-, -, ho, -⟩ := (placeOk_poll_iff hq).mp h
    exact placeOk_pulseRise_clocking rfl (.inr ho) (Nat.zero_le _) (fun _ => Nat.zero_le _) hd
  | pollTimeout hq =>
    obtain ⟨hl, hb, -⟩ := (placeOk_poll_iff hq).mp h
    exact placeOk_complete hl hb
  | pollTimeoutRun hq _ _ ho =>
    obtain ⟨hl, hb, -⟩ := (placeOk_poll_iff hq).mp h
    exact placeOk_beginDelay hl hb ho
  | pollBackoff hq _ ht =>
    obtain ⟨hl, hb, ho, -⟩ := (placeOk_poll_iff hq).mp h
    exact placeOk_beginBackoff hl hb ho ht hd
  | backoffEnd hq =>
    obtain ⟨hl, hb, ho, -, hp⟩ := (placeOk_backoff_iff hq).mp h
    exact placeOk_beginPoll hl hb ho hp
  | samplePulse hq _ ho =>
    obtain ⟨-, hb, -⟩ := (placeOk_clocking_iff hq).mp h
    exact placeOk_pulseFall_clocking hq (.inl ho) hb (fun hr => absurd ho (ne_pulse_of_readsFrame hr)) hd
  | commitPulse hq hp =>
    obtain ⟨hs, hb, -⟩ := (placeOk_clocking_iff hq).mp h
    exact placeOk_complete ⟨by simpa [hp] using hs, hp⟩ hb
  | sampleFrame hq hp ho =>
    obtain ⟨-, -, -, -, hf, -⟩ := (placeOk_clocking_iff hq).mp h
    have hle := hf ho hp
    have hcount : (u.bitcnt + 1#5).toNat = u.bitcnt.toNat + 1 := bitcnt_succ hle
    exact placeOk_pulseFall_clocking hq (.inr ho) (hcount.trans_le (Nat.succ_le_succ hle))
      (fun _ => (Nat.le_add_left 1 _).trans hcount.ge) hd
  | nextPulse hq hp ho hb =>
    exact placeOk_pulseRise_clocking hq (.inr ho) hb.le (fun _ => Nat.le_of_lt_succ hb) hd
  | endFrame hq hp ho hge =>
    obtain ⟨hs, hb, -⟩ := (placeOk_clocking_iff hq).mp h
    exact placeOk_beginProcess ⟨by simpa [hp] using hs, hp⟩ hb (ne_nop_of_readsFrame ho) (ne_pulse_of_readsFrame ho)
      hleg fun _ => ⟨Nat.le_antisymm hb hge, rfl⟩
  | commitReadFrame hq | commitDecode hq | commitCalibrate hq | commitRecordRate hq | commitAcquire hq =>
    obtain ⟨hl, hb, -⟩ := (placeOk_process_iff hq).mp h
    exact placeOk_complete hl hb
  | commitRun hq ho =>
    obtain ⟨hl, hb, -⟩ := (placeOk_process_iff hq).mp h
    exact placeOk_beginDelay hl hb ho

/-- DELAY, or the wait that begins in its place, writes STATE, CNT and POLLS only (R103). -/
theorem beginDelay_eq (s : State) :
    ∃ q n p, q ≠ .idle ∧ beginDelay s = { s with seq := q, cnt := n, polls := p } := by
  unfold beginDelay
  split
  · exact ⟨.poll, _, _, nofun, rfl⟩
  · exact ⟨.delay, _, _, nofun, rfl⟩

/-- What an action can do to RUNNING, OP, the error record, and FV_Q with FRAME_P: OP is kept or cleared, never by RUN
(R36, R105); READY_TIMEOUT is the only error (R79); FV_Q and FRAME_P rise together (R100). -/
structure ActionFrame (u v : State) : Prop where
  running : v.running = u.running
  op : v.op = u.op ∨ v.op = .nop ∧ u.op ≠ .run
  err : v.errP = u.errP ∧ v.errCode = u.errCode ∨ v.errP = true ∧ v.errCode = recordedErr u.edgeErr .readyTimeout
  frame : v.fvQ = u.fvQ ∧ v.frameP = u.frameP ∨ v.fvQ = true ∧ v.frameP = true

/-- A command other than RUN completes. -/
theorem actionFrame_complete (ho : u.op ≠ .run) (hr : v.running = u.running)
    (he : v.errP = u.errP ∧ v.errCode = u.errCode ∨ v.errP = true ∧ v.errCode = recordedErr u.edgeErr .readyTimeout)
    (hf : v.fvQ = u.fvQ ∧ v.frameP = u.frameP ∨ v.fvQ = true ∧ v.frameP = true) : ActionFrame u (complete v) :=
  ⟨hr, .inr ⟨rfl, ho⟩, he, hf⟩

/-- DELAY keeps the frame. -/
theorem actionFrame_beginDelay (h : ActionFrame u v) : ActionFrame u (beginDelay v) := by
  obtain ⟨q, n, p, -, heq⟩ := beginDelay_eq v
  rw [heq]
  exact ⟨h.running, h.op, h.err, h.frame⟩

theorem actionFrame_of_action (ha : Action u v) : ActionFrame u v := by
  cases ha with
  | pollTimeout _ _ _ ho =>
    exact actionFrame_complete (by rcases ho with ho | ho <;> simp [ho]) rfl (.inr ⟨rfl, rfl⟩) (.inl ⟨rfl, rfl⟩)
  | pollTimeoutRun =>
    exact actionFrame_beginDelay ⟨rfl, .inl rfl, .inr ⟨rfl, rfl⟩, .inl ⟨rfl, rfl⟩⟩
  | commitPulse _ _ ho | commitReadFrame _ ho | commitDecode _ ho | commitCalibrate _ ho | commitRecordRate _ ho =>
    exact actionFrame_complete (by simp [ho]) rfl (.inl ⟨rfl, rfl⟩) (.inl ⟨rfl, rfl⟩)
  | commitAcquire _ ho => exact actionFrame_complete (by simp [ho]) rfl (.inl ⟨rfl, rfl⟩) (.inr ⟨rfl, rfl⟩)
  | commitRun => exact actionFrame_beginDelay ⟨rfl, .inl rfl, .inl ⟨rfl, rfl⟩, .inr ⟨rfl, rfl⟩⟩
  | _ => exact ⟨rfl, .inl rfl, .inl ⟨rfl, rfl⟩, .inl ⟨rfl, rfl⟩⟩

theorem actionFrame_of_advance (h : advance u = .next v) : ActionFrame u v := by
  rcases advance_cases h with ⟨-, rfl⟩ | ⟨-, ha⟩
  · exact ⟨rfl, .inl rfl, .inl ⟨rfl, rfl⟩, .inl ⟨rfl, rfl⟩⟩
  · exact actionFrame_of_action ha

/-! ## The invariant within an edge -/

/-- What no running command writes carries the clauses about the build, SYNC, SETTLE and BACKOFF. -/
theorem staticOk_of_untouched (h : untouched v = untouched u) :
    (u.BuildOk → v.BuildOk) ∧ (u.DelaysOk → v.DelaysOk) ∧ v.scale = u.scale ∧ v.fresh = u.fresh := by
  simp only [untouched, Prod.mk.injEq] at h
  obtain ⟨hbuild, -, hscale, hsettle, hbackoff, -, -, -, -, -, hsync, hfresh, -⟩ := h
  rw [State.BuildOk, State.BuildOk, State.DelaysOk, State.DelaysOk, hbuild, hsync, hsettle, hbackoff]
  exact ⟨id, id, hscale, hfresh⟩

/-- The invariant between the parts of an edge: the edge has begun, so FV_Q is 0 and the first edge after reset is
past, and the error it notes, if any, is one of R108's (R109). -/
structure MidEdge (s : State) : Prop where
  inv : s.Inv
  fresh : s.fresh = false
  fvQ : s.fvQ = false
  edgeErr : s.edgeErr ≠ some .none

theorem midEdge_beginEdge (h : s.Inv) : MidEdge (beginEdge s) := by
  obtain ⟨hbuild, hdelays, hplace, hrun, hscale, herr, -, -⟩ := inv_iff_placeOk.mp h
  exact ⟨inv_iff_placeOk.mpr ⟨hbuild, hdelays, hplace, hrun, hscale, herr, nofun, nofun⟩, rfl, rfl, nofun⟩

theorem midEdge_raiseErr {c : ErrCode} (hc : c ≠ .none) (h : MidEdge s) : MidEdge (raiseErr c s) := by
  obtain ⟨hinv, hfresh, hfv, hnote⟩ := h
  obtain ⟨hbuild, hdelays, hplace, hrun, hscale, -, hidle, hvalid⟩ := inv_iff_placeOk.mp hinv
  have hrec : recordedErr s.edgeErr c ≠ .none := recordedErr_ne_none c _ hc hnote
  exact ⟨inv_iff_placeOk.mpr ⟨hbuild, hdelays, hplace, hrun, hscale, iff_of_true rfl hrec, hidle, hvalid⟩, hfresh, hfv,
    by simpa using hrec⟩

/-- The fields the invariant speaks of that the first action of a command leaves alone: the flags, and what a running
command never writes. -/
def offerKeeps (s : State) := (untouched s, s.errP, s.errCode, s.frameP, s.fvQ, s.edgeErr)

/-- What the first action of `i`, made in `u`, leaves in `v` of the things the invariant speaks of (R69, R103). -/
structure Starts (i : Instr) (u v : State) : Prop where
  op : v.op = i
  running : v.running = (u.running || decide (i = .run))
  keeps : offerKeeps v = offerKeeps u
  place : v.PlaceOk

/-- An accepted command keeps the invariant (R69). -/
theorem midEdge_of_starts {i : Instr} (h : MidEdge u) (hb : busy u = false)
    (hs : needsScale i = true → scaleValid u = true) (hv : Starts i u v) : MidEdge v := by
  obtain ⟨hop, hrun, hkeep, hplace⟩ := hv
  obtain ⟨hinv, hfresh, hfv, hnote⟩ := h
  obtain ⟨hbuild, hdelays, hidle, hrunning, -, herr, -, -⟩ := inv_iff_placeOk.mp hinv
  obtain ⟨-, -, hnop, -⟩ := (placeOk_idle_iff (not_busy_iff.mp hb)).mp hidle
  have hstill : u.running = false := by simpa [State.RunningOk, hnop] using hrunning
  simp only [offerKeeps, Prod.mk.injEq] at hkeep
  obtain ⟨hstatic, eerr, ecode, -, efv, enote⟩ := hkeep
  obtain ⟨kbuild, kdelays, escale, efresh⟩ := staticOk_of_untouched hstatic
  refine ⟨inv_iff_placeOk.mpr ⟨kbuild hbuild, kdelays hdelays, hplace, ?_, ?_, ?_, ?_, ?_⟩, efresh.trans hfresh,
    efv.trans hfv, enote ▸ hnote⟩
  · rw [State.RunningOk, hrun, hstill, hop]; simp
  · rwa [State.ScaleOk, scaleValid, hop, escale]
  · rwa [State.ErrOk, eerr, ecode]
  · rw [State.FreshOk, efresh, hfresh]; nofun
  · rw [State.FrameValidOk, efv, hfv]; nofun

/-- An offer keeps the invariant, where the command's first action in an idle block makes its place (R69). -/
theorem midEdge_offer {i : Instr} {start : State → State} (h : MidEdge u)
    (hstart : u.IsLow → u.bitcnt.toNat ≤ 25 → Starts i u (start { u with op := i })) : MidEdge (offer i start u) := by
  rcases offer_cases i start u with ⟨-, ho⟩ | ⟨-, -, -, ho⟩ | ⟨hb, hs, ho⟩ <;> rw [ho]
  · exact midEdge_raiseErr nofun h
  · exact midEdge_raiseErr nofun h
  · obtain ⟨-, -, hplace, -⟩ := inv_iff_placeOk.mp h.inv
    obtain ⟨hl, hbit, -⟩ := (placeOk_idle_iff (not_busy_iff.mp hb)).mp hplace
    exact midEdge_of_starts h hb hs (hstart hl hbit)

/-- The offer of every command keeps the invariant (R69). -/
theorem midEdge_exec {i : Instr} (h : MidEdge u) (he : exec i u = .next v) : MidEdge v := by
  obtain ⟨hbuild, hdelays, -⟩ := inv_iff_placeOk.mp h.inv
  have still : u.running = (u.running || false) := (Bool.or_false _).symm
  cases i with
  | nop => cases he; exact h
  | pulse =>
    cases he
    exact midEdge_offer h fun _ hb =>
      ⟨rfl, still, rfl, placeOk_pulseRise_clocking rfl (.inl rfl) hb nofun hdelays⟩
  | readFrame | acquire =>
    cases he
    exact midEdge_offer h fun hl hb => ⟨rfl, still, rfl, placeOk_beginWait hl hb rfl⟩
  | decode | calibrate | recordRate =>
    cases he
    exact midEdge_offer h fun hl hb => ⟨rfl, still, rfl, placeOk_beginProcess hl hb nofun nofun hbuild.1 nofun⟩
  | run =>
    cases he
    exact midEdge_offer h fun _ hb =>
      ⟨rfl, (Bool.or_true _).symm, rfl, placeOk_pulseRise_init rfl rfl hb hdelays⟩

/-- A configuration write keeps the invariant: a busy block rejects it, and in an idle one no running command reads the
register; SETTLE and BACKOFF stay at least 1 (R50, R22, R23). -/
theorem midEdge_configWrite {store : State → State} (h : MidEdge u)
    (hkeep : ∃ o c d b n m a, store u = { u with
      offset := o, scale := c, settle := d, backoff := b, interframe := n, timeout := m, arg := a })
    (hdelays : u.DelaysOk → (store u).DelaysOk) : MidEdge (configWrite store u) := by
  cases hb : busy u with
  | true =>
    rw [configWrite_busy store hb]
    exact midEdge_raiseErr nofun h
  | false =>
    rw [configWrite_idle store hb]
    obtain ⟨o, c, d, b, n, m, a, heq⟩ := hkeep
    obtain ⟨hinv, hfresh, hfv, hnote⟩ := h
    obtain ⟨hbuild, hd, hplace, hrun, -, herr, hidle, hvalid⟩ := inv_iff_placeOk.mp hinv
    have hq := not_busy_iff.mp hb
    obtain ⟨hl, hbit, hnop, hcnt⟩ := (placeOk_idle_iff hq).mp hplace
    have hd' := hdelays hd
    rw [heq] at hd' ⊢
    refine ⟨inv_iff_placeOk.mpr ⟨hbuild, hd', (placeOk_idle_iff ?_).mpr ⟨hl, hbit, hnop, hcnt⟩, hrun, ?_, herr, hidle,
      hvalid⟩, hfresh, hfv, hnote⟩
    · exact hq
    · simp [State.ScaleOk, hnop, needsScale]

/-- A STATUS write keeps the invariant: ERR_CODE is cleared with ERR_P (R18, R109). -/
theorem midEdge_clearPending (w : Word) (h : MidEdge u) : MidEdge (clearPending w u) := by
  obtain ⟨hinv, hfresh, hfv, hnote⟩ := h
  obtain ⟨hbuild, hdelays, hplace, hrun, hscale, herr, hidle, -⟩ := inv_iff_placeOk.mp hinv
  have herr' : (clearPending w u).ErrOk := by
    cases hc : clearsErr w u <;> simp [State.ErrOk, hc]
    exact herr
  exact ⟨inv_iff_placeOk.mpr ⟨hbuild, hdelays, hplace, hrun, hscale, herr', hidle,
    fun h => absurd h (by simp [hfv])⟩, hfresh, hfv, hnote⟩

/-- A host write keeps the invariant (R49). -/
theorem midEdge_regWrite {r : Reg} {d : U64} (h : MidEdge u) (hw : regWrite r d u = .next v) : MidEdge v := by
  cases r with
  | cmd =>
    simp only [regWrite, offerWord] at hw
    split at hw
    · cases hw; exact midEdge_raiseErr nofun h
    · exact midEdge_exec h hw
  | status => cases hw; exact midEdge_clearPending _ h
  | ctrl => cases hw; exact ⟨h.inv, h.fresh, h.fvQ, h.edgeErr⟩
  | settle =>
    cases hw
    exact midEdge_configWrite h ⟨_, _, _, _, _, _, _, rfl⟩ fun hd => ⟨atLeastOne_ne_zero _, hd.2⟩
  | backoff =>
    cases hw
    exact midEdge_configWrite h ⟨_, _, _, _, _, _, _, rfl⟩ fun hd => ⟨hd.1, atLeastOne_ne_zero _⟩
  | offset | scale | interframe | timeout | arg =>
    cases hw
    exact midEdge_configWrite h ⟨_, _, _, _, _, _, _, rfl⟩ id
  | acc | raw | value | rate | frameCount | startTime => cases hw; exact h

theorem midEdge_hostPart (h : MidEdge u) (hw : hostPart u = .next v) : MidEdge v := by
  unfold hostPart at hw
  split at hw
  · exact midEdge_regWrite h hw
  · cases hw; exact h

theorem midEdge_selfOffer {first : Bool} (h : MidEdge u) (ho : selfOffer first u = .next v) : MidEdge v := by
  unfold selfOffer at ho
  split at ho
  · exact midEdge_exec h ho
  · cases ho; exact h

/-- A running command keeps the invariant at every edge (R37). -/
theorem inv_of_advance (h : MidEdge u) (ha : advance u = .next v) : v.Inv := by
  obtain ⟨hinv, hfresh, hfv, hnote⟩ := h
  obtain ⟨hbuild, hdelays, hplace, hrun, hscale, herr, -, -⟩ := inv_iff_placeOk.mp hinv
  have hplace' : v.PlaceOk := by
    rcases advance_cases ha with ⟨hc, rfl⟩ | ⟨-, hact⟩
    · exact placeOk_countDown hplace hc
    · exact placeOk_of_action hbuild.1 hdelays hplace hact
  obtain ⟨erun, eop, eerr, eframe⟩ := actionFrame_of_advance ha
  obtain ⟨kbuild, kdelays, escale, efresh⟩ := staticOk_of_untouched (untouched_advance ha)
  refine inv_iff_placeOk.mpr ⟨kbuild hbuild, kdelays hdelays, hplace', ?_, ?_, ?_, ?_, ?_⟩
  · rw [State.RunningOk, erun]
    rcases eop with e | ⟨e, hne⟩
    · rwa [e]
    · simpa [State.RunningOk, e, hne] using hrun
  · rw [State.ScaleOk, scaleValid, escale]
    rcases eop with e | ⟨e, -⟩
    · rwa [e]
    · simp [e, needsScale]
  · rw [State.ErrOk]
    rcases eerr with ⟨e, ec⟩ | ⟨e, ec⟩
    · rwa [e, ec]
    · simpa [e, ec] using recordedErr_ne_none .readyTimeout _ nofun hnote
  · rw [State.FreshOk, efresh, hfresh]; nofun
  · rcases eframe with ⟨e, -⟩ | ⟨-, e⟩
    · rw [State.FrameValidOk, e, hfv]; nofun
    · exact fun _ => e

/-- The end of an edge keeps the invariant: SYNC keeps its length (R40). -/
theorem inv_finishEdge (d : U64) (h : s.Inv) : (finishEdge d s).Inv := by
  obtain ⟨⟨hleg, hsync⟩, hdelays, hplace, hrest⟩ := inv_iff_placeOk.mp h
  exact inv_iff_placeOk.mpr ⟨⟨hleg, by rw [finishEdge_sync, shiftSync_length, hsync]; rfl⟩, hdelays, hplace, hrest⟩

/-! ## The parts of an edge -/

theorem andThen_eq_next {o : Host.Outcome State Fault Refusal} {f : State → Host.Outcome State Fault Refusal} :
    andThen o f = .next t ↔ ∃ u, o = .next u ∧ f u = .next t := by
  cases o <;> simp [andThen]

/-- What an edge with `rst` 0 can do, said once: the own offer, the host's part and the running command's part, in this
order, and the end of the edge (R61, R126). -/
theorem step_parts (hr : (portIn s).rst = false) (h : step s = .next t) :
    ∃ u v w, selfOffer s.fresh (beginEdge s) = .next u ∧ hostPart u = .next v
      ∧ sequencerPart (busy s) v = .next w ∧ t = finishEdge (regRdata s) w := by
  rw [step_of_run hr, runEdge, andThen_eq_next] at h
  obtain ⟨u, hu, h⟩ := h
  obtain ⟨v, hv, h⟩ := andThen_eq_next.mp h
  obtain ⟨w, hw, h⟩ := andThen_eq_next.mp h
  cases h
  exact ⟨u, v, w, hu, hv, hw, rfl⟩

/-- The state a reset edge leaves has the invariant, for every legal build (R45). -/
theorem inv_afterReset {b : Build} (hleg : b.legal = true) (now : U64) (ins : List EdgeIn) (n : Nat) :
    (State.afterReset b now ins n).Inv := by
  have hdelays : b.settleRst ≠ 0#32 ∧ b.backoffRst ≠ 0#32 := by
    simp only [Build.legal, Bool.and_eq_true, decide_eq_true_eq] at hleg
    exact ⟨hleg.1.2, hleg.2⟩
  exact inv_iff_placeOk.mpr ⟨⟨hleg, List.length_replicate⟩, hdelays,
    (placeOk_idle_iff rfl).mpr ⟨⟨rfl, rfl⟩, Nat.zero_le _, rfl, rfl⟩, iff_of_false nofun nofun, nofun,
    iff_of_false nofun (fun h => h rfl), fun _ => rfl, nofun⟩

/-- Settles O29: a reset edge leaves a state with the invariant; at any other edge the own offer, the host's write and
the running command each keep it. -/
theorem stepKeepsTheInvariant : Obligations.StepKeepsTheInvariant := by
  intro s t hinv h
  cases hr : (portIn s).rst with
  | true =>
    rw [step_of_reset hr] at h
    cases h
    exact inv_afterReset (inv_iff_placeOk.mp hinv).1.1 _ _ _
  | false =>
    obtain ⟨u, v, w, hu, hv, hw, rfl⟩ := step_parts hr h
    have hmid : MidEdge v := midEdge_hostPart (midEdge_selfOffer (midEdge_beginEdge hinv) hu) hv
    refine inv_finishEdge _ ?_
    unfold sequencerPart at hw
    split at hw
    · exact inv_of_advance hmid hw
    · cases hw; exact hmid.inv

/-- The default delays of the model's own reset state are legal, whatever the free CLK_HZ and TICK_HZ are (R7). -/
theorem legal_configBuild : Config.build.legal = true := by
  have hclk : 1 ≤ Config.clkHz ∧ Config.clkHz ≤ 21474836475 := by unfold Config.clkHz; omega
  have htick : 1 ≤ Config.tickHz ∧ Config.tickHz ≤ 4294967295 := by unfold Config.tickHz; omega
  have hne (n : Nat) (h1 : 1 ≤ n) (h2 : n < 2 ^ 32) : BitVec.ofNat 32 n ≠ 0#32 := fun h => by
    have := congrArg BitVec.toNat h
    rw [BitVec.toNat_ofNat, Nat.mod_eq_of_lt h2] at this
    simp at this
    omega
  have hsettle := hne ((Config.clkHz + 999999) / 1000000) (by omega) (by omega)
  have hbackoff := hne ((Config.clkHz + 999) / 1000) (by omega) (by omega)
  simp only [Build.legal, Bool.and_eq_true, decide_eq_true_eq]
  exact ⟨⟨⟨⟨⟨hclk.1, htick⟩, by decide⟩, by decide⟩, hsettle⟩, hbackoff⟩

/-- Settles O28: a reset state is idle with every flag 0, so only the build's own delays matter. -/
theorem resetHasTheInvariant : Obligations.ResetHasTheInvariant :=
  ⟨fun _ now ins n hleg => inv_afterReset hleg now ins n, inv_afterReset legal_configBuild _ _ _⟩

end Sys2Proof.Machine
end

section
/-! PROOFS. O25, O46, O26, O55, O58, O59: what changes at one edge, each from the parts of the edge (`step_parts`) and
the frame of each part. -/

namespace Sys2Proof.Machine

variable {s t u v w : State}

/-! ## The frame of the own offer and of the end of the edge -/

/-- The block's own offer is RUN, or there is none (R126). -/
theorem selfOffer_cases {first : Bool} (h : selfOffer first u = .next v) :
    v = u ∨ first = true ∧ u.build.autoRun = true ∧ exec .run u = .next v := by
  unfold selfOffer at h
  split at h
  · rename_i ho
    obtain ⟨hf, ha⟩ : first = true ∧ u.build.autoRun = true := by simpa using ho
    exact .inr ⟨hf, ha, h⟩
  · cases h; exact .inl rfl

theorem offerFrame_of_selfOffer {first : Bool} (h : selfOffer first u = .next v) : OfferFrame .run u v := by
  rcases selfOffer_cases h with rfl | ⟨-, -, he⟩
  · exact offerFrame_self _ _
  · exact offerFrame_of_exec _ he

theorem sequencerPart_of_idle (h : sequencerPart false u = .next v) : v = u := by cases h; rfl

theorem sequencerPart_of_busy (h : sequencerPart true u = .next v) : advance u = .next v := h

/-- The sequencer's part of an edge leaves alone what no running command writes. -/
theorem untouched_sequencerPart {b : Bool} (h : sequencerPart b u = .next v) : untouched v = untouched u := by
  cases b
  · rw [sequencerPart_of_idle h]
  · exact untouched_advance (sequencerPart_of_busy h)

/-! ## The registers a host never writes -/

/-- The registers that only a running command or a reset writes, with FV_Q, `fresh` and the build. -/
def hostKeeps (s : State) :=
  (s.raw, s.value, s.rate, s.frameCount, s.acc, s.bitcnt, s.lastBit, s.startTime, s.fvQ, s.fresh, s.build)

theorem hostKeeps_offer {i : Instr} {start : State → State}
    (h : hostKeeps (start { u with op := i }) = hostKeeps u) : hostKeeps (offer i start u) = hostKeeps u := by
  rcases offer_cases i start u with ⟨-, ho⟩ | ⟨-, -, -, ho⟩ | ⟨-, -, ho⟩ <;> rw [ho]
  · rfl
  · rfl
  · exact h

theorem hostKeeps_exec {i : Instr} (h : exec i u = .next v) : hostKeeps v = hostKeeps u := by
  cases i <;> cases h
  · rfl
  all_goals exact hostKeeps_offer rfl

theorem hostKeeps_configWrite {store : State → State} (h : hostKeeps (store u) = hostKeeps u) :
    hostKeeps (configWrite store u) = hostKeeps u := by
  unfold configWrite
  split
  · rfl
  · exact h

theorem hostKeeps_regWrite {r : Reg} {d : U64} (h : regWrite r d u = .next v) : hostKeeps v = hostKeeps u := by
  cases r with
  | cmd =>
    simp only [regWrite, offerWord] at h
    split at h
    · cases h; rfl
    · exact hostKeeps_exec h
  | status | ctrl | acc | raw | value | rate | frameCount | startTime => cases h; rfl
  | offset | scale | settle | backoff | interframe | timeout | arg =>
    cases h; exact hostKeeps_configWrite rfl

theorem hostKeeps_hostPart (h : hostPart u = .next v) : hostKeeps v = hostKeeps u := by
  unfold hostPart at h
  split at h
  · exact hostKeeps_regWrite h
  · cases h; rfl

theorem hostKeeps_selfOffer {first : Bool} (h : selfOffer first u = .next v) : hostKeeps v = hostKeeps u := by
  rcases selfOffer_cases h with rfl | ⟨-, -, he⟩
  · rfl
  · exact hostKeeps_exec he

/-- At an edge of an idle block these registers stay. -/
theorem hostKeeps_step_of_idle (hr : (portIn s).rst = false) (hb : busy s = false) (h : step s = .next t) :
    hostKeeps t = hostKeeps (beginEdge s) := by
  obtain ⟨u, v, w, hu, hv, hw, rfl⟩ := step_parts hr h
  rw [hb] at hw
  cases sequencerPart_of_idle hw
  exact (hostKeeps_hostPart hv).trans (hostKeeps_selfOffer hu)

/-- An edge of a busy block: the running command goes on from the state before the edge, the pending bits, the error
record and CTRL apart (R61). -/
theorem advance_of_step (hr : (portIn s).rst = false) (hb : busy s = true) (h : step s = .next t) :
    ∃ d f e c k g w, advance (hostTouched (beginEdge s) d f e c k g) = .next w ∧ t = finishEdge (regRdata s) w := by
  obtain ⟨d, f, e, c, k, g, hs, -⟩ := step_of_busy hr hb
  obtain ⟨w, hw, ht⟩ := andThen_eq_next.mp (hs.symm.trans h)
  cases ht
  exact ⟨d, f, e, c, k, g, w, hw, rfl⟩

/-- Where an action may change each read-only register (R27 to R34, R18, R78, R82). -/
structure RecordWriters (u v : State) : Prop where
  raw : v.raw ≠ u.raw →
    u.seq = .process ∧ (u.op = .readFrame ∨ u.op = .decode ∨ u.op = .acquire ∨ u.op = .run)
  value : v.value ≠ u.value → u.seq = .process ∧ (u.op = .calibrate ∨ u.op = .acquire ∨ u.op = .run)
  count : v.rate ≠ u.rate ∨ v.frameCount ≠ u.frameCount →
    u.seq = .process ∧ (u.op = .recordRate ∨ u.op = .acquire ∨ u.op = .run) ∧ v.frameCount = u.frameCount + 1#64
  samples : v.acc ≠ u.acc ∨ v.bitcnt ≠ u.bitcnt →
    u.seq = .poll ∧ doutLevel u = false ∨ u.seq = .clocking ∧ readsFrame u.op = true ∧ u.phase = .high
  lastBit : v.lastBit ≠ u.lastBit → u.seq = .clocking ∧ u.op = .pulse ∧ u.phase = .low

theorem recordWriters_of_same (h : hostKeeps v = hostKeeps u) : RecordWriters u v := by
  simp only [hostKeeps, Prod.mk.injEq] at h
  obtain ⟨hraw, hvalue, hrate, hcount, hacc, hbit, hlast, -⟩ := h
  exact ⟨fun h => absurd hraw h, fun h => absurd hvalue h, fun h => h.elim (absurd hrate) (absurd hcount),
    fun h => h.elim (absurd hacc) (absurd hbit), fun h => absurd hlast h⟩

theorem recordWriters_beginDelay (h : RecordWriters u v) : RecordWriters u (beginDelay v) := by
  obtain ⟨q, n, p, -, heq⟩ := beginDelay_eq v
  rw [heq]
  exact ⟨h.raw, h.value, h.count, h.samples, h.lastBit⟩

/-- The commit of a frame's record (R100). -/
theorem recordWriters_frameCommit (hq : u.seq = .process) (ho : u.op = .acquire ∨ u.op = .run) (d : U24) :
    RecordWriters u (frameCommit d u) :=
  ⟨fun _ => ⟨hq, .inr (.inr ho)⟩, fun _ => ⟨hq, .inr ho⟩, fun _ => ⟨hq, .inr ho, rfl⟩,
    fun h => h.elim (absurd rfl) (absurd rfl), fun h => absurd rfl h⟩

theorem recordWriters_of_action (ha : Action u v) : RecordWriters u v := by
  cases ha with
  | pollReady hq hd =>
    exact ⟨fun h => absurd rfl h, fun h => absurd rfl h, fun h => h.elim (absurd rfl) (absurd rfl),
      fun _ => .inl ⟨hq, hd⟩, fun h => absurd rfl h⟩
  | pollTimeoutRun => exact recordWriters_beginDelay (recordWriters_of_same rfl)
  | commitPulse hq hp ho =>
    exact ⟨fun h => absurd rfl h, fun h => absurd rfl h, fun h => h.elim (absurd rfl) (absurd rfl),
      fun h => h.elim (absurd rfl) (absurd rfl), fun _ => ⟨hq, ho, hp⟩⟩
  | sampleFrame hq hp ho =>
    exact ⟨fun h => absurd rfl h, fun h => absurd rfl h, fun h => h.elim (absurd rfl) (absurd rfl),
      fun _ => .inr ⟨hq, ho, hp⟩, fun h => absurd rfl h⟩
  | commitReadFrame hq ho | commitDecode hq ho =>
    exact ⟨fun _ => ⟨hq, by simp [ho]⟩, fun h => absurd rfl h, fun h => h.elim (absurd rfl) (absurd rfl),
      fun h => h.elim (absurd rfl) (absurd rfl), fun h => absurd rfl h⟩
  | commitCalibrate hq ho =>
    exact ⟨fun h => absurd rfl h, fun _ => ⟨hq, .inl ho⟩, fun h => h.elim (absurd rfl) (absurd rfl),
      fun h => h.elim (absurd rfl) (absurd rfl), fun h => absurd rfl h⟩
  | commitRecordRate hq ho =>
    exact ⟨fun h => absurd rfl h, fun h => absurd rfl h, fun _ => ⟨hq, .inl ho, rfl⟩,
      fun h => h.elim (absurd rfl) (absurd rfl), fun h => absurd rfl h⟩
  | commitAcquire hq ho =>
    obtain ⟨hraw, hvalue, hcount, hsamples, hlast⟩ := recordWriters_frameCommit hq (.inl ho) u.dTmp
    exact ⟨hraw, hvalue, hcount, hsamples, hlast⟩
  | commitRun hq ho => exact recordWriters_beginDelay (recordWriters_frameCommit hq (.inr ho) _)
  | _ => exact recordWriters_of_same rfl

/-- Settles O25: an idle block changes none of these registers, a Wait that goes on neither, and an action only where
its rule says. -/
theorem registersChangeOnlyByTheirWriters : Obligations.RegistersChangeOnlyByTheirWriters := by
  intro s t hr h
  cases hb : busy s with
  | false =>
    have hsame := hostKeeps_step_of_idle hr hb h
    simp only [hostKeeps, Prod.mk.injEq] at hsame
    obtain ⟨hraw, hvalue, hrate, hcount, hacc, hbit, hlast, hstart, -, -, hbuild⟩ := hsame
    exact ⟨fun h => absurd hraw h, fun h => absurd hvalue h, fun h => h.elim (absurd hrate) (absurd hcount),
      fun h => h.elim (absurd hacc) (absurd hbit), fun h => absurd hlast h, hstart, hbuild⟩
  | true =>
    obtain ⟨d, f, e, c, k, g, w, ha, rfl⟩ := advance_of_step hr hb h
    have hkeep := untouched_advance ha
    simp only [untouched, Prod.mk.injEq] at hkeep
    obtain ⟨hbuild, -, -, -, -, -, -, -, -, hstart, -⟩ := hkeep
    rcases advance_cases ha with ⟨-, rfl⟩ | ⟨hw, hact⟩
    · exact ⟨fun h => absurd rfl h, fun h => absurd rfl h, fun h => h.elim (absurd rfl) (absurd rfl),
        fun h => h.elim (absurd rfl) (absurd rfl), fun h => absurd rfl h, hstart, hbuild⟩
    · have hacts : s.acts := ⟨hr, hb, hw⟩
      obtain ⟨hraw, hvalue, hcount, hsamples, hlast⟩ := recordWriters_of_action hact
      exact ⟨fun h => ⟨hacts, hraw h⟩, fun h => ⟨hacts, hvalue h⟩, fun h => ⟨hacts, hcount h⟩,
        fun h => ⟨hacts, hsamples h⟩, fun h => ⟨hacts, hlast h⟩, hstart, hbuild⟩

/-- An action raises FV_Q where it commits a frame's record, and nothing lowers it before the next edge (R42, R100). -/
theorem fvQ_of_action (ha : Action u v) :
    v.fvQ = true ↔ u.seq = .process ∧ (u.op = .acquire ∨ u.op = .run) ∨ u.fvQ = true := by
  cases ha with
  | commitAcquire hq ho => exact iff_of_true rfl (.inl ⟨hq, .inl ho⟩)
  | commitRun hq ho =>
    obtain ⟨q, n, p, -, heq⟩ := beginDelay_eq (frameCommit u.dTmp u)
    rw [heq]
    exact iff_of_true rfl (.inl ⟨hq, .inr ho⟩)
  | pollTimeoutRun hq =>
    obtain ⟨q, n, p, -, heq⟩ := beginDelay_eq (raiseErr .readyTimeout (pollCounted u))
    rw [heq]
    simp [hq, pollCounted]
  | commitReadFrame _ ho | commitDecode _ ho | commitCalibrate _ ho | commitRecordRate _ ho =>
    refine ⟨.inr, fun h => h.resolve_left ?_⟩
    simp [ho]
  | none hq | idlePulseFall hq | idlePulseEnd hq | delayEnd hq | pollReady hq | pollTimeout hq | pollBackoff hq
  | backoffEnd hq | samplePulse hq | commitPulse hq | sampleFrame hq | nextPulse hq | endFrame hq =>
    refine ⟨.inr, fun h => h.resolve_left ?_⟩
    simp [hq]

/-- Settles O46: FV_Q falls at the start of every edge, and only the commit of a frame's record raises it. -/
theorem frameValidMarksTheCommit : Obligations.FrameValidMarksTheCommit := by
  intro s t h
  refine ⟨rfl, ?_⟩
  cases hr : (portIn s).rst with
  | true =>
    rw [step_of_reset hr] at h
    cases h
    exact iff_of_false nofun fun hc => by rw [hc.1.1] at hr; cases hr
  | false =>
    cases hb : busy s with
    | false =>
      have hsame := hostKeeps_step_of_idle hr hb h
      simp only [hostKeeps, Prod.mk.injEq] at hsame
      obtain ⟨-, -, -, -, -, -, -, -, hfv, -⟩ := hsame
      exact iff_of_false (by rw [hfv]; nofun) fun hc => by rw [hc.1.2.1] at hb; cases hb
    | true =>
      obtain ⟨d, f, e, c, k, g, w, ha, rfl⟩ := advance_of_step hr hb h
      rcases advance_cases ha with ⟨hc, rfl⟩ | ⟨hw, hact⟩
      · exact iff_of_false nofun fun ha => absurd (waitEnds_iff.mp ha.1.2.2) (Nat.not_le.mpr hc)
      · rw [finishEdge_fvQ, fvQ_of_action hact]
        exact ⟨fun h => ⟨⟨hr, hb, hw⟩, h.resolve_right nofun⟩, fun h => .inl h.2⟩

/-! ## The frame of every edge -/

/-- Every edge with `rst` 0 shifts SYNC, uses up the cycle's inputs, leaves `fresh` 0 and keeps the build (R40). -/
theorem step_frame (hr : (portIn s).rst = false) (h : step s = .next t) :
    t.sync = shiftSync s.sync (portIn s).dout ∧ t.inputs = s.inputs.tail ∧ t.fresh = false ∧ t.build = s.build := by
  obtain ⟨u, v, w, hu, hv, hw, rfl⟩ := step_parts hr h
  obtain ⟨hin, hedges, hsync, hbuild⟩ := (offerFrame_of_selfOffer hu).inp
  obtain ⟨hin', hedges', hsync', hbuild'⟩ := (hostFrame_of_hostPart hv).inp
  have hkeep := untouched_sequencerPart hw
  have hfresh := (hostKeeps_hostPart hv).trans (hostKeeps_selfOffer hu)
  simp only [untouched, hostKeeps, Prod.mk.injEq] at hkeep hfresh
  obtain ⟨kbuild, -, -, -, -, -, -, -, -, -, ksync, kfresh, kin, kedges, -⟩ := hkeep
  obtain ⟨-, -, -, -, -, -, -, -, -, ffresh, -⟩ := hfresh
  have hport : portIn w = portIn s :=
    portIn_congr (kin.trans (hin'.trans hin)) (kedges.trans (hedges'.trans hedges))
  refine ⟨?_, ?_, kfresh.trans ffresh, kbuild.trans (hbuild'.trans hbuild)⟩
  · rw [finishEdge_sync, hport, ksync, hsync', hsync]; rfl
  · rw [finishEdge_inputs, kin, hin', hin]; rfl

theorem statusWord_resetEdge (s : State) : statusWord (resetEdge s) = 0#32 := by
  have hbusy : busy (resetEdge s) = false := rfl
  rw [statusWord, hbusy]
  exact (by decide : (0#11 ++ 0#5 ++ 0#1 ++ ErrCode.none.code ++ 0#1 ++ Bit.vec false ++ Bit.vec false ++ Bit.vec false
    ++ 0#1 ++ Bit.vec false ++ Bit.vec false ++ Bit.vec false ++ SeqState.idle.code ++ Bit.vec false) = 0#32)

/-- Settles O26: a reset edge leaves `State.afterReset`, field by field; an edge with `rst` 0 leaves `fresh` 0. -/
theorem resetEdgeGivesResetValues : Obligations.ResetEdgeGivesResetValues := by
  refine ⟨fun s t hr h => (step_frame hr h).2.2.1, fun s hr => ⟨resetEdge s, step_of_reset hr, ?_⟩⟩
  exact ⟨rfl, statusWord_resetEdge s, rfl, rfl, rfl, rfl, rfl, rfl, rfl, rfl, rfl, rfl, rfl, rfl, rfl, rfl, rfl, rfl,
    rfl, rfl, rfl, rfl, rfl, rfl, rfl, rfl, rfl⟩


/-! ## The synchroniser -/

theorem run_core_succ (n : Nat) (s : State) :
    Host.Core.run core (n + 1) s = andThen (step s) (Host.Core.run core n) := by
  simp only [Host.Core.run]
  rw [show core.step s = step s from rfl]
  cases step s <;> rfl

/-- The first edge of a run with no reset. -/
theorem run_succ {n : Nat} (hn : s.noReset (n + 1)) (h : Host.Core.run core (n + 1) s = .next t) :
    ∃ u, step s = .next u ∧ u.noReset n ∧ Host.Core.run core n u = .next t := by
  obtain ⟨u, hu, hrun⟩ := andThen_eq_next.mp ((run_core_succ n s).symm.trans h)
  refine ⟨u, hu, noReset_drop (m := 1) (by rwa [Nat.add_comm]) ?_, hrun⟩
  rw [(step_frame (rst_of_noReset hn) hu).2.1, List.drop_one]

/-- A level behind `l` in SYNC is the oldest after as many edges as `l` is long (R40). -/
theorem sync_run {l r : List Bit} {b : Bit} (hs : s.sync = l ++ b :: r) (hn : s.noReset l.length)
    (h : Host.Core.run core l.length s = .next t) : ∃ r', t.sync = b :: r' := by
  induction l generalizing s r with
  | nil => cases h; exact ⟨r, hs⟩
  | cons a l ih =>
    obtain ⟨u, hu, hnu, hrun⟩ := run_succ hn h
    have hsync := (step_frame (rst_of_noReset hn) hu).1
    refine ih (r := r ++ [(portIn s).dout]) ?_ hnu hrun
    rw [hsync, hs]
    simp [shiftSync]

/-- Settles O55: `dout` goes in behind the stages, so it is at the head after one edge for each. -/
theorem synchroniserDelaysDout : Obligations.SynchroniserDelaysDout := by
  constructor
  · rintro s t ⟨-, hlen⟩ hn h
    rw [← hlen] at hn h
    cases hl : s.sync with
    | nil =>
      rw [hl] at h
      cases h
      simp [doutLevel, syncOut, hl]
    | cons a l =>
      rw [hl] at hn h
      obtain ⟨u, hu, hnu, hrun⟩ := run_succ hn h
      have hsync : u.sync = l ++ [(portIn s).dout] := by
        rw [(step_frame (rst_of_noReset hn) hu).1, hl]; rfl
      obtain ⟨r', hr'⟩ := sync_run hsync hnu hrun
      simp [doutLevel, syncOut, hr']
  · intro s t hr h b hb
    rw [step_of_reset hr] at h
    cases h
    exact List.eq_of_mem_replicate hb

/-- Settles O59: with no offer and no host write, an edge of an idle block is its beginning and its end. -/
theorem idleBlockStaysIdle : Obligations.IdleBlockStaysIdle := by
  intro s hr hw hb ho
  have hpart : hostPart (beginEdge s) = .next (beginEdge s) := by
    unfold hostPart
    rw [portIn_congr (t := beginEdge s) (s := s) rfl rfl, hw]
    rfl
  rw [step_of_idle hr hb ho, hpart]
  rfl
end Sys2Proof.Machine
end

section
/-! PROOFS. O58: CTRL, the configuration, STATE, SCK and the flags at one edge. Each part of the edge has its frame
(Laws/Frames.lean); here the frames of the three parts are put together and read in the state before the edge. -/

namespace Sys2Proof.Machine

variable {s t u v w : State}

/-- Two parts of an edge that keep the configuration keep it together. -/
theorem sameConfig_trans (h : sameConfig s u) (g : sameConfig u v) : sameConfig s v := by
  obtain ⟨h1, h2, h3, h4, h5, h6, h7⟩ := h
  obtain ⟨g1, g2, g3, g4, g5, g6, g7⟩ := g
  exact ⟨g1.trans h1, g2.trans h2, g3.trans h3, g4.trans h4, g5.trans h5, g6.trans h6, g7.trans h7⟩

theorem busy_congr (h : u.seq = s.seq) : busy u = busy s := by rw [busy, busy, h]

theorem waitEnds_congr (h : u.cnt = s.cnt) : waitEnds u = waitEnds s := by rw [waitEnds, waitEnds, h]

/-- The three parts of an edge with `rst` 0: the own offer leaves `u`, the host's part `v`, the sequencer's `w`. -/
structure EdgeParts (s u v w : State) : Prop where
  rst : (portIn s).rst = false
  self : selfOffer s.fresh (beginEdge s) = .next u
  host : hostPart u = .next v
  seq : sequencerPart (busy s) v = .next w

theorem edgeParts_of_step (hr : (portIn s).rst = false) (h : step s = .next t) :
    ∃ u v w, EdgeParts s u v w ∧ t = finishEdge (regRdata s) w := by
  obtain ⟨u, v, w, hu, hv, hw, ht⟩ := step_parts hr h
  exact ⟨u, v, w, ⟨hr, hu, hv, hw⟩, ht⟩

namespace EdgeParts

variable (p : EdgeParts s u v w)
include p

theorem offerFrame : OfferFrame .run (beginEdge s) u := offerFrame_of_selfOffer p.self

theorem hostFrame : HostFrame u v := hostFrame_of_hostPart p.host

theorem portIn_u : portIn u = portIn s := portIn_congr p.offerFrame.inp.1 p.offerFrame.inp.2.1

theorem hostWrites_u {r : Reg} : u.hostWrites r ↔ s.hostWrites r := by
  rw [State.hostWrites, State.hostWrites, p.portIn_u]

/-- Unless the block offers itself RUN, its own part of the edge changes nothing. -/
theorem noOffer_or_selfOffer :
    u = beginEdge s ∨ s.fresh = true ∧ s.build.autoRun = true ∧ exec .run (beginEdge s) = .next u :=
  selfOffer_cases p.self

theorem busy_u (hb : busy s = true) : busy u = true := (busy_congr (p.offerFrame.b hb).1).trans hb

/-- A busy block is where it was when the sequencer's part begins. -/
theorem place_of_busy (hb : busy s = true) :
    v.seq = s.seq ∧ v.op = s.op ∧ v.cnt = s.cnt ∧ v.polls = s.polls ∧ v.running = s.running := by
  obtain ⟨hseq, hop, hcnt, hpolls, hrun⟩ := p.offerFrame.b hb
  obtain ⟨gseq, gop, gcnt, gpolls, grun⟩ := p.hostFrame.b (p.busy_u hb)
  exact ⟨gseq.trans hseq, gop.trans hop, gcnt.trans hcnt, gpolls.trans hpolls, grun.trans hrun⟩

theorem busy_v (hb : busy s = true) : busy v = true := (busy_congr (p.place_of_busy hb).1).trans hb

theorem advance_v (hb : busy s = true) : advance v = .next w := by
  have h := p.seq
  rwa [hb] at h

/-- An idle block has no sequencer's part. -/
theorem w_of_idle (hb : busy s = false) : w = v := by
  have h := p.seq
  rw [hb] at h
  exact sequencerPart_of_idle h

/-- An idle block was idle before the own offer. -/
theorem idle_of_idle_u (hb : busy u = false) : busy s = false := by
  cases hs : busy s
  · rfl
  · rw [p.busy_u hs] at hb; cases hb

theorem acts_of_waitEnds (hb : busy s = true) (hw : waitEnds v = true) : s.acts := by
  obtain ⟨-, -, hcnt, -⟩ := p.place_of_busy hb
  exact ⟨p.rst, hb, (waitEnds_congr hcnt).symm.trans hw⟩

/-- The level a poll reads is the same when the sequencer's part begins (R40). -/
theorem doutLevel_v : doutLevel v = doutLevel s := by
  obtain ⟨hin, hedges, hsync, -⟩ := p.hostFrame.inp
  rw [doutLevel, doutLevel, portIn_congr hin hedges, p.portIn_u, hsync, p.offerFrame.inp.2.2.1]
  rfl

theorem timeout_of_busy (hb : busy s = true) : v.timeout = s.timeout := by
  have huv : sameConfig u v := by
    by_contra hc
    have hu := (p.hostFrame.cfg hc).1
    rw [p.busy_u hb] at hu
    cases hu
  obtain ⟨-, -, -, -, -, h, -⟩ := sameConfig_trans p.offerFrame.cfg huv
  exact h

theorem ctrl_w : w.ctrl = v.ctrl := by
  have h := untouched_sequencerPart p.seq
  simp only [untouched, Prod.mk.injEq] at h
  obtain ⟨-, -, -, -, -, -, -, -, h, -⟩ := h
  exact h

/-- CTRL is what the host writes to it, and else as before (R19). -/
theorem ctrl :
    (s.hostWrites .ctrl → w.ctrl = (portIn s).regWdata.setWidth 3) ∧ (¬ s.hostWrites .ctrl → w.ctrl = s.ctrl) := by
  have hv := p.hostFrame.ctrl
  rw [p.portIn_u, p.offerFrame.ctrl] at hv
  rw [p.ctrl_w, hv]
  exact ⟨fun h => if_pos h, fun h => if_neg h⟩

theorem sameConfig_vw : sameConfig v w := by
  cases hb : busy s with
  | false => rw [p.w_of_idle hb]; exact sameConfig_refl v
  | true => exact sameConfig_advance (p.advance_v hb)

/-- The configuration changes only where the host writes it in an idle block (R50). -/
theorem config (h : ¬ sameConfig s w) :
    busy s = false ∧ (portIn s).regWr = true ∧ (Reg.ofIdx (portIn s).regIdx).access = .config := by
  have huv : ¬ sameConfig u v := fun huv =>
    h (sameConfig_trans p.offerFrame.cfg (sameConfig_trans huv p.sameConfig_vw))
  obtain ⟨hb, hwrite⟩ := p.hostFrame.cfg huv
  rw [p.portIn_u] at hwrite
  exact ⟨p.idle_of_idle_u hb, hwrite⟩

/-- STATE and SCK change where a Wait ends or an idle block is offered a command (R35, R55). -/
theorem place (h : w.seq ≠ s.seq ∨ w.sckQ ≠ s.sckQ) :
    s.acts ∨ busy s = false ∧ (s.fresh = true ∧ s.build.autoRun = true
      ∨ ∃ c i, s.offersWord c ∧ decodeWord c = .command i ∧ i ≠ .nop) := by
  by_cases hu : u.seq ≠ s.seq ∨ u.sckQ ≠ s.sckQ
  · rcases p.noOffer_or_selfOffer with rfl | ⟨hf, ha, he⟩
    · exact absurd hu (by simp)
    · exact .inr ⟨((place_of_exec he).2 hu).2, .inl ⟨hf, ha⟩⟩
  obtain ⟨huseq, husck⟩ : u.seq = s.seq ∧ u.sckQ = s.sckQ := by simpa [not_or] using hu
  by_cases hv : v.seq ≠ u.seq ∨ v.sckQ ≠ u.sckQ
  · obtain ⟨hb, hwr, hcmd, i, hd, hi⟩ := (place_of_hostPart p.host).2 hv
    rw [p.portIn_u] at hwr hcmd hd
    exact .inr ⟨p.idle_of_idle_u hb, .inr ⟨_, i, ⟨p.rst, hwr, hcmd, rfl⟩, hd, hi⟩⟩
  obtain ⟨hvseq, hvsck⟩ : v.seq = u.seq ∧ v.sckQ = u.sckQ := by simpa [not_or] using hv
  rw [← huseq, ← husck, ← hvseq, ← hvsck] at h
  cases hb : busy s with
  | false => rw [p.w_of_idle hb] at h; simp at h
  | true => exact .inl (p.acts_of_waitEnds hb ((place_of_advance (p.advance_v hb)).2 h))

/-- Every change of SCK is a PinWrite of its new level (R55). -/
theorem pinFrame : PinFrame (beginEdge s) w := by
  have hu : PinFrame (beginEdge s) u := by
    rcases p.noOffer_or_selfOffer with rfl | ⟨-, -, he⟩
    · exact pinFrame_refl _
    · exact (place_of_exec he).1
  have hv : PinFrame u v := (place_of_hostPart p.host).1
  have hw : PinFrame v w := by
    cases hb : busy s with
    | false => rw [p.w_of_idle hb]; exact pinFrame_refl v
    | true => exact (place_of_advance (p.advance_v hb)).1
  exact pinFrame_trans hu (pinFrame_trans hv hw)

/-- After the host's part DONE_P is as before, unless the host cleared it (R18). -/
theorem doneP_v :
    v.doneP = true ↔ s.doneP = true ∧ ¬ (s.hostWrites .status ∧ (portIn s).regWdata.getLsbD 8 = true) := by
  rw [p.hostFrame.d, p.offerFrame.d, p.hostWrites_u, p.portIn_u]; rfl

/-- After the host's part FRAME_P is as before, unless the host cleared it (R18). -/
theorem frameP_v :
    v.frameP = true ↔ s.frameP = true ∧ ¬ (s.hostWrites .status ∧ (portIn s).regWdata.getLsbD 9 = true) := by
  rw [p.hostFrame.f, p.offerFrame.f, p.hostWrites_u, p.portIn_u]; rfl

/-- DONE_P is set where the command completes (R111), over the host's clear (R112). -/
theorem doneP :
    w.doneP = true ↔ busy s = true ∧ busy w = false
      ∨ s.doneP = true ∧ ¬ (s.hostWrites .status ∧ (portIn s).regWdata.getLsbD 8 = true) := by
  rw [← p.doneP_v]
  cases hb : busy s with
  | false => rw [p.w_of_idle hb]; simp
  | true => rw [(advanceFrame_of_advance (p.busy_v hb) (p.advance_v hb)).d]; simp

/-- FRAME_P is set where a frame's record is committed (R100), over the host's clear (R112). -/
theorem frameP :
    w.frameP = true ↔ s.acts ∧ s.seq = .process ∧ (s.op = .acquire ∨ s.op = .run)
      ∨ s.frameP = true ∧ ¬ (s.hostWrites .status ∧ (portIn s).regWdata.getLsbD 9 = true) := by
  rw [← p.frameP_v]
  cases hb : busy s with
  | false =>
    rw [p.w_of_idle hb]
    simp [State.acts, hb]
  | true =>
    obtain ⟨hseq, hop, hcnt, -⟩ := p.place_of_busy hb
    rw [(advanceFrame_of_advance (p.busy_v hb) (p.advance_v hb)).f, hseq, hop, waitEnds_congr hcnt]
    simp [State.acts, hb, p.rst]

/-- RUNNING changes only where RUN is accepted (R103). -/
theorem running (h : w.running ≠ s.running) :
    busy s = false ∧ w.running = true ∧ w.op = .run ∧ w.seq = .init := by
  cases hb : busy s with
  | true =>
    obtain ⟨-, -, -, -, hrun⟩ := p.place_of_busy hb
    exact absurd ((advanceFrame_of_advance (p.busy_v hb) (p.advance_v hb)).run.trans hrun) h
  | false =>
    rw [p.w_of_idle hb] at h ⊢
    by_cases hu : u.running = s.running
    · obtain ⟨-, hrun⟩ := p.hostFrame.run (by rwa [hu])
      exact ⟨rfl, hrun⟩
    · obtain ⟨-, hrun, hop, hseq⟩ := p.offerFrame.run hu
      obtain ⟨gseq, gop, -, -, grun⟩ := p.hostFrame.b (busy_iff.mpr (by simp [hseq]))
      exact ⟨rfl, grun.trans hrun, gop.trans hop, gseq.trans hseq⟩

/-- The error record changes only at the own offer, a poll that times out, a write that raises an error, and a write
that clears it (R109). -/
theorem error (h : w.errP ≠ s.errP ∨ w.errCode ≠ s.errCode) :
    s.fresh = true ∧ s.build.autoRun = true ∨ s.timesOut ∨ s.hostWriteRaises
      ∨ s.hostWrites .status ∧ (portIn s).regWdata.getLsbD 10 = true := by
  rcases p.noOffer_or_selfOffer with rfl | ⟨hf, ha, -⟩
  · by_cases hv : v.errP ≠ s.errP ∨ v.errCode ≠ s.errCode
    · exact .inr (.inr (p.hostFrame.err hv))
    obtain ⟨hverr, hvcode⟩ : v.errP = s.errP ∧ v.errCode = s.errCode := by simpa [not_or] using hv
    rw [← hverr, ← hvcode] at h
    cases hb : busy s with
    | false => rw [p.w_of_idle hb] at h; simp at h
    | true =>
      obtain ⟨hw, hq, hd, ht⟩ := (advanceFrame_of_advance (p.busy_v hb) (p.advance_v hb)).err h
      obtain ⟨hseq, -, -, hpolls, -⟩ := p.place_of_busy hb
      rw [hseq] at hq
      rw [p.doutLevel_v] at hd
      rw [p.timeout_of_busy hb, hpolls] at ht
      exact .inr (.inl ⟨p.acts_of_waitEnds hb hw, hq, hd, ht⟩)
  · exact .inl ⟨hf, ha⟩

end EdgeParts

/-- Settles O58: each clause is the frame of the three parts of the edge put together. -/
theorem flagsChangeOnlyByTheirWriters : Obligations.FlagsChangeOnlyByTheirWriters := by
  intro s t hr h
  obtain ⟨u, v, w, p, rfl⟩ := edgeParts_of_step hr h
  exact ⟨p.ctrl.1, p.ctrl.2, p.config, p.place, p.pinFrame.sck, p.doneP, p.frameP, p.running, p.error⟩
end Sys2Proof.Machine
end

section
/-! PROOFS. O14, O15, O20, O22: the register space, the bits of STATUS, and what a host write reads back. -/

namespace Sys2Proof.Machine

variable {s t : State}

/-- The bits of STATUS from bit 0 up. -/
theorem getLsbD_statusWord (s : State) (i : Nat) :
    (statusWord s).getLsbD i =
      if i = 0 then busy s
      else if i < 4 then s.seq.code.getLsbD (i - 1)
      else if i = 4 then s.running
      else if i = 5 then s.lastBit
      else if i = 6 then s.sckQ
      else if i = 8 then s.doneP
      else if i = 9 then s.frameP
      else if i = 10 then s.errP
      else if 12 ≤ i ∧ i < 15 then s.errCode.code.getLsbD (i - 12)
      else if 16 ≤ i ∧ i < 21 then s.bitcnt.getLsbD (i - 16)
      else false := by
  simp only [statusWord, BitVec.getLsbD_append, BitVec.getLsbD_ofBool, BitVec.getLsbD_zero]
  rcases Nat.lt_or_ge i 21 with h | h
  · interval_cases i <;> simp
  · simp (disch := omega) only [if_neg]

theorem busy_eq_code (s : State) : busy s = decide (s.seq.code ≠ 0#3) := by
  cases h : s.seq <;> simp [busy, h, SeqState.code]

/-- Settles O14: the codes by definition, the fields of STATUS bit by bit. -/
theorem statusFieldsStandInPlace : Obligations.StatusFieldsStandInPlace := by
  refine ⟨⟨rfl, rfl, rfl, rfl, rfl, rfl, rfl⟩, ⟨rfl, rfl, rfl, rfl, rfl⟩, fun s => ?_⟩
  have bit := getLsbD_statusWord s
  have field {n : Nat} (k : Nat) (f : BitVec n) (h : ∀ i < n, (statusWord s).getLsbD (k + i) = f.getLsbD i) :
      (statusWord s).extractLsb' k n = f :=
    BitVec.eq_of_getLsbD_eq fun i hi => by rw [BitVec.getLsbD_extractLsb', h i hi]; simp [hi]
  have seq := field 1 s.seq.code fun i hi => by rw [bit]; interval_cases i <;> simp
  have code := field 12 s.errCode.code fun i hi => by rw [bit]; interval_cases i <;> simp
  have count := field 16 s.bitcnt fun i hi => by rw [bit]; interval_cases i <;> simp
  have reserved := field 21 0#11 fun i hi => by rw [bit]; interval_cases i <;> simp
  exact ⟨(bit 0).trans (busy_eq_code s), seq, bit 4, bit 5, bit 6, bit 7, bit 8, bit 9, bit 10, bit 11, code, bit 15,
    count, reserved⟩

/-- Settles O15, bit by bit: bits 8, 9 and 10 fall where `v` says, bits 14:12 with bit 10, and no other bit is
written. -/
theorem statusWriteClearsOnlyItsBits : Obligations.StatusWriteClearsOnlyItsBits := by
  intro s v hs
  have hclear : clearsErr v s = v[10] := by simp [clearsErr, hs]
  have hbusy : busy (clearPending v s) = busy s := rfl
  have hnone : ErrCode.none.code = 0#3 := rfl
  refine BitVec.eq_of_getLsbD_eq fun i hi => ?_
  rw [BitVec.getLsbD_and, BitVec.getLsbD_not, BitVec.getLsbD_or, BitVec.getLsbD_and, getLsbD_statusWord,
    getLsbD_statusWord]
  cases h10 : v[10] <;> rw [h10] at hclear <;> interval_cases i <;> simp [hclear, h10, hbusy, hnone]

theorem idx_ofIdx (i : BitVec 4) : (Reg.ofIdx i).idx = i := by
  revert i; decide

theorem ofIdx_idx (r : Reg) : Reg.ofIdx r.idx = r := by
  cases r <;> rfl

theorem ctrlWord_eq_setWidth (s : State) : ctrlWord s = s.ctrl.setWidth 32 := by
  refine BitVec.eq_of_toNat_eq ?_
  rw [ctrlWord, BitVec.toNat_append, BitVec.toNat_setWidth, Nat.mod_eq_of_lt (s.ctrl.isLt.trans (by decide))]
  simp

/-- What the host reads fits the register's width (R16, R47). -/
theorem toNat_regRead_lt (r : Reg) (s : State) : (regRead r s).toNat < 2 ^ r.width := by
  have narrow {n : Nat} (x : BitVec n) (hn : n ≤ 64) : (x.setWidth 64).toNat < 2 ^ n := by
    rw [BitVec.toNat_setWidth_of_le hn]; exact x.isLt
  cases r with
  | cmd => exact Nat.two_pow_pos 32
  | status | ctrl | offset | settle | backoff | interframe | timeout | arg | acc | raw =>
    exact narrow _ (by decide)
  | scale | value | rate | frameCount | startTime => exact BitVec.isLt _

/-- Settles O20: the map by definition, the index by its 16 values, and the read of each register by definition. -/
theorem registerMapIsFull : Obligations.RegisterMapIsFull := by
  refine ⟨⟨rfl, rfl, rfl⟩, ⟨rfl, rfl, rfl⟩, ⟨rfl, rfl, rfl⟩, ⟨rfl, rfl, rfl⟩, ⟨rfl, rfl, rfl⟩, ⟨rfl, rfl, rfl⟩,
    ⟨rfl, rfl, rfl⟩, ⟨rfl, rfl, rfl⟩, ⟨rfl, rfl, rfl⟩, ⟨rfl, rfl, rfl⟩, ⟨rfl, rfl, rfl⟩, ⟨rfl, rfl, rfl⟩,
    ⟨rfl, rfl, rfl⟩, ⟨rfl, rfl, rfl⟩, ⟨rfl, rfl, rfl⟩, ⟨rfl, rfl, rfl⟩, idx_ofIdx, ofIdx_idx, fun s => ?_⟩
  exact ⟨rfl, rfl, rfl, rfl, rfl, rfl, rfl, rfl, rfl, rfl, rfl, rfl, rfl, rfl, rfl, rfl, ctrlWord_eq_setWidth s,
    fun r => toNat_regRead_lt r s⟩

theorem toNat_atLeastOne (v : Word) : (atLeastOne v).toNat = if v.toNat = 0 then 1 else v.toNat := by
  unfold atLeastOne
  by_cases h : v = 0#32
  · simp [h]
  · rw [if_neg h, if_neg fun h0 : v.toNat = 0 => h (BitVec.eq_of_toNat_eq h0)]

/-- A configuration register written in an idle block reads as the written value, cut to its width (R20 to R26). -/
theorem regRead_of_configWrite {r : Reg} {d : U64} (hacc : r.access = .config) (hb : busy s = false)
    (h : regWrite r d s = .next t) :
    (regRead r t).toNat
      = if (r = .settle ∨ r = .backoff) ∧ d.toNat % 2 ^ 32 = 0 then 1 else d.toNat % 2 ^ r.width := by
  cases r with
  | cmd | status | ctrl | acc | raw | value | rate | frameCount | startTime => cases hacc
  | scale =>
    simp only [regWrite, configWrite_idle _ hb] at h
    cases h
    exact (Nat.mod_eq_of_lt d.isLt).symm
  | offset | interframe | timeout | arg =>
    simp only [regWrite, configWrite_idle _ hb] at h
    cases h
    rw [regRead, BitVec.toNat_setWidth_of_le (by decide), BitVec.toNat_setWidth]
    rfl
  | settle | backoff =>
    simp only [regWrite, configWrite_idle _ hb] at h
    cases h
    rw [regRead, BitVec.toNat_setWidth_of_le (by decide), toNat_atLeastOne, BitVec.toNat_setWidth]
    simp [Reg.width]

/-- Every other register reads as before (R49). -/
theorem regRead_of_configWrite_ne {r q : Reg} {d : U64} (hacc : r.access = .config) (hb : busy s = false)
    (h : regWrite r d s = .next t) (hq : q ≠ r) : regRead q t = regRead q s := by
  cases r with
  | cmd | status | ctrl | acc | raw | value | rate | frameCount | startTime => cases hacc
  | offset | scale | settle | backoff | interframe | timeout | arg =>
    simp only [regWrite, configWrite_idle _ hb] at h
    cases h
    cases q <;> first | contradiction | rfl

/-- Settles O22: an idle block stores the write, which is in the register's own field alone. -/
theorem configWriteReadsBack : Obligations.ConfigWriteReadsBack := fun _ _ _ _ hacc hb h =>
  ⟨regRead_of_configWrite hacc hb h, fun _ hq => regRead_of_configWrite_ne hacc hb h hq⟩
end Sys2Proof.Machine
end

section
/-! PROOFS. O21, O23, O24: what a host write does, by register, and the lock of the configuration. -/

namespace Sys2Proof.Machine

variable {s : State}

/-- A write to a configuration register of a busy block records BUSY and nothing else (R50). -/
theorem regWrite_config_of_busy {r : Reg} (d : U64) (hb : busy s = true) (hacc : r.access = .config) :
    regWrite r d s = .next (raiseErr .busy s) := by
  cases r with
  | cmd | status | ctrl | acc | raw | value | rate | frameCount | startTime => cases hacc
  | offset | scale | settle | backoff | interframe | timeout | arg =>
    exact congrArg Host.Outcome.next (configWrite_busy _ hb)

/-- A write to a read-only register changes nothing (R49). -/
theorem regWrite_readOnly {r : Reg} (d : U64) (hacc : r.access = .readOnly) : regWrite r d s = .next s := by
  cases r with
  | cmd | status | ctrl | offset | scale | settle | backoff | interframe | timeout | arg => cases hacc
  | acc | raw | value | rate | frameCount | startTime => rfl

/-- The host's part of an edge with a write is the write the ports hold before the edge (R49, R51). -/
theorem hostPart_beginEdge_of_write (hw : (portIn s).regWr = true) :
    hostPart (beginEdge s) = regWrite (Reg.ofIdx (portIn s).regIdx) (portIn s).regWdata (beginEdge s) :=
  if_pos hw

/-- Settles O23: by register. -/
theorem readOnlyWritesAreIgnored : Obligations.ReadOnlyWritesAreIgnored :=
  fun _ d => ⟨fun _ hacc => regWrite_readOnly d hacc, rfl⟩

/-- Settles O21: the edge of an idle block is the host's part alone, and each configuration write is `configWrite`. -/
theorem configWritesObeyTheLock : Obligations.ConfigWritesObeyTheLock := by
  refine ⟨fun s hr hw hb ho => ?_, fun s d => ⟨fun hb => ?_, fun hb r hacc => regWrite_config_of_busy d hb hacc⟩⟩
  · rw [step_of_idle hr hb ho, hostPart_beginEdge_of_write hw]
  · have stored (store : State → State) :
        (.next (configWrite store s) : Host.Outcome State Fault Refusal) = .next (store s) :=
      congrArg Host.Outcome.next (configWrite_idle store hb)
    exact ⟨stored _, stored _, stored _, stored _, stored _, stored _, stored _⟩

/-- Settles O24: the only writer of the configuration is the host, in an idle block. -/
theorem configFixedWhileBusy : Obligations.ConfigFixedWhileBusy := by
  intro s t hr hb h
  obtain ⟨u, v, w, p, rfl⟩ := edgeParts_of_step hr h
  by_contra hchanged
  obtain ⟨hidle, -⟩ := p.config hchanged
  exact absurd hidle (by simp [hb])
end Sys2Proof.Machine
end

section
/-! PROOFS. O19: the host's read. Setting `reg_rd` of the coming cycle commutes with every part of an edge, so the edge
with a read and the edge without differ in the value delivered alone. -/

namespace Sys2Proof.Machine

/-- The state with `reg_rd` of the coming cycle set to `rd` and the other ports as they were. -/
def setRead (rd : Bit) (s : State) : State :=
  { s with inputs := { portIn s with regRd := rd } :: s.inputs.tail }

@[simp] theorem setRead_seq (rd : Bit) (s : State) : (setRead rd s).seq = s.seq := rfl
@[simp] theorem setRead_op (rd : Bit) (s : State) : (setRead rd s).op = s.op := rfl
@[simp] theorem setRead_phase (rd : Bit) (s : State) : (setRead rd s).phase = s.phase := rfl
@[simp] theorem setRead_bitcnt (rd : Bit) (s : State) : (setRead rd s).bitcnt = s.bitcnt := rfl
@[simp] theorem setRead_interframe (rd : Bit) (s : State) : (setRead rd s).interframe = s.interframe := rfl

/-- `setRead` of the state an outcome holds; a fault or a refusal stays. -/
def setReadNext (rd : Bit) (o : Host.Outcome State Fault Refusal) : Host.Outcome State Fault Refusal :=
  andThen o fun u => .next (setRead rd u)

/-- A part of an edge takes no notice of `reg_rd`: with it set before the part, the outcome is that with it set after
the part. -/
abbrev IgnoresRead (rd : Bit) (f : State → Host.Outcome State Fault Refusal) : Prop :=
  Function.Semiconj f (setRead rd) (setReadNext rd)

variable {rd : Bit} {s t : State}

theorem setReadNext_eq_next {o : Host.Outcome State Fault Refusal} (h : o = .next t) :
    setReadNext rd o = .next (setRead rd t) := by
  rw [h]; rfl

/-- The access without the read is the access with it, `reg_rd` set to 0. -/
theorem setRead_withHostAccess (wr : Bit) (idx : BitVec 4) (data : U64) (s : State) :
    setRead false (withHostAccess wr true idx data s) = withHostAccess wr false idx data s := rfl

/-- No register holds `reg_rd`. -/
theorem regRead_withHostAccess (r : Reg) (wr rd : Bit) (idx : BitVec 4) (data : U64) (s : State) :
    regRead r (withHostAccess wr rd idx data s) = regRead r s := rfl

/-! ## Putting parts together -/

theorem ignoresRead_next {f : State → State} (hf : Function.Commute f (setRead rd)) :
    IgnoresRead rd fun s => .next (f s) :=
  fun s => congrArg Host.Outcome.next (hf s)

/-- A choice that does not look at `reg_rd`, between two parts that do not. -/
theorem semiconj_ite {β : Type} {c : State → Bool} {f g : State → β} {m : β → β}
    (hc : ∀ s, c (setRead rd s) = c s) (hf : Function.Semiconj f (setRead rd) m)
    (hg : Function.Semiconj g (setRead rd) m) :
    Function.Semiconj (fun s => if c s then f s else g s) (setRead rd) m := by
  intro s
  simp only [hc s]
  split
  · exact hf s
  · exact hg s

/-! ## The offer of a command and the host's write -/

theorem commute_offer (i : Instr) {start : State → State} (h : Function.Commute start (setRead rd)) :
    Function.Commute (offer i start) (setRead rd) :=
  semiconj_ite (c := busy) (fun _ => rfl) (fun _ => rfl) <|
    semiconj_ite (c := fun s => needsScale i && !scaleValid s) (fun _ => rfl) (fun _ => rfl)
      fun s => h { s with op := i }

theorem ignoresRead_exec (i : Instr) : IgnoresRead rd (exec i) := by
  cases i with
  | nop => exact fun _ => rfl
  | pulse | readFrame | decode | calibrate | recordRate | acquire | run =>
    exact ignoresRead_next (commute_offer _ fun _ => rfl)

theorem ignoresRead_offerWord (w : Word) : IgnoresRead rd (offerWord w) := by
  unfold offerWord
  cases decodeWord w with
  | illegal _ => exact fun _ => rfl
  | command i => exact ignoresRead_exec i

theorem commute_configWrite {store : State → State} (h : Function.Commute store (setRead rd)) :
    Function.Commute (configWrite store) (setRead rd) :=
  semiconj_ite (c := busy) (fun _ => rfl) (fun _ => rfl) h

theorem ignoresRead_regWrite (r : Reg) (d : U64) : IgnoresRead rd (regWrite r d) := by
  cases r with
  | cmd => exact ignoresRead_offerWord _
  | status | ctrl | acc | raw | value | rate | frameCount | startTime => exact fun _ => rfl
  | offset | scale | settle | backoff | interframe | timeout | arg =>
    exact ignoresRead_next (commute_configWrite fun _ => rfl)

theorem ignoresRead_hostPart : IgnoresRead rd hostPart :=
  semiconj_ite (c := fun s => (portIn s).regWr) (fun _ => rfl) (fun s => ignoresRead_regWrite _ _ s) fun _ => rfl

theorem ignoresRead_selfOffer (first : Bool) : IgnoresRead rd (selfOffer first) :=
  semiconj_ite (c := fun s => first && s.build.autoRun) (fun _ => rfl) (ignoresRead_exec .run) fun _ => rfl

/-! ## The running command -/

theorem commute_beginDelay : Function.Commute beginDelay (setRead rd) := by
  intro s
  unfold beginDelay
  rw [setRead_interframe]
  split <;> rfl

theorem commute_endFramePulse : Function.Commute endFramePulse (setRead rd) := by
  intro s
  unfold endFramePulse
  rw [setRead_bitcnt]
  split <;> rfl

theorem ignoresRead_withValidScale {f : State → State} (h : Function.Commute f (setRead rd)) :
    IgnoresRead rd (withValidScale f) :=
  semiconj_ite (c := scaleValid) (fun _ => rfl) (ignoresRead_next h) fun _ => rfl

theorem ignoresRead_timeoutStep : IgnoresRead rd timeoutStep := by
  intro s
  unfold timeoutStep
  rw [setRead_op]
  cases s.op with
  | run => exact congrArg Host.Outcome.next (commute_beginDelay (raiseErr .readyTimeout s))
  | readFrame | acquire | nop | pulse | decode | calibrate | recordRate => rfl

theorem ignoresRead_pollFailed : IgnoresRead rd pollFailed :=
  semiconj_ite (c := fun s => pollsTimedOut s.timeout (pollsAfter s.polls)) (fun _ => rfl)
    (fun s => ignoresRead_timeoutStep { s with polls := pollsAfter s.polls }) fun _ => rfl

theorem ignoresRead_pollStep : IgnoresRead rd pollStep :=
  semiconj_ite (c := doutLevel) (fun _ => rfl) (fun s => ignoresRead_pollFailed (pinRead s)) fun _ => rfl

theorem ignoresRead_clockingSample : IgnoresRead rd clockingSample := by
  intro s
  unfold clockingSample
  rw [setRead_op]
  cases s.op <;> rfl

theorem ignoresRead_clockingEnd : IgnoresRead rd clockingEnd := by
  intro s
  unfold clockingEnd
  rw [setRead_op]
  cases s.op with
  | readFrame | acquire | run => exact congrArg Host.Outcome.next (commute_endFramePulse s)
  | pulse | nop | decode | calibrate | recordRate => rfl

theorem commute_complete : Function.Commute complete (setRead rd) := fun _ => rfl

theorem commute_storeValue : Function.Commute (fun s => storeValue s.raw s) (setRead rd) := fun _ => rfl

theorem commute_frameCommit : Function.Commute (fun s => frameCommit s.dTmp s) (setRead rd) := by
  intro s
  have hport : portIn (frameCommit s.dTmp s) = portIn s := portIn_congr rfl rfl
  simp only [setRead, hport]
  rfl

theorem ignoresRead_commitCalibrate : IgnoresRead rd commitCalibrate :=
  ignoresRead_withValidScale (commute_complete.comp_left commute_storeValue)

theorem ignoresRead_commitAcquire : IgnoresRead rd commitAcquire :=
  ignoresRead_withValidScale (commute_complete.comp_left commute_frameCommit)

theorem ignoresRead_commitRun : IgnoresRead rd commitRun :=
  ignoresRead_withValidScale (commute_beginDelay.comp_left commute_frameCommit)

theorem ignoresRead_processEnd : IgnoresRead rd processEnd := by
  intro s
  unfold processEnd
  rw [setRead_op]
  cases s.op with
  | calibrate => exact ignoresRead_commitCalibrate s
  | acquire => exact ignoresRead_commitAcquire s
  | run => exact ignoresRead_commitRun s
  | readFrame | decode | recordRate | nop | pulse => rfl

theorem ignoresRead_nextAction : IgnoresRead rd nextAction := by
  intro s
  unfold nextAction
  rw [setRead_seq, setRead_phase]
  cases s.seq with
  | idle | delay | backoff => rfl
  | init => cases s.phase <;> rfl
  | poll => exact ignoresRead_pollStep s
  | clocking =>
    cases s.phase with
    | high => exact ignoresRead_clockingSample s
    | low => exact ignoresRead_clockingEnd s
  | process => exact ignoresRead_processEnd s

theorem ignoresRead_advance : IgnoresRead rd advance :=
  semiconj_ite (c := waitEnds) (fun _ => rfl) ignoresRead_nextAction fun _ => rfl

theorem ignoresRead_sequencerPart (wasBusy : Bool) : IgnoresRead rd (sequencerPart wasBusy) := by
  cases wasBusy with
  | true => exact ignoresRead_advance
  | false => exact fun _ => rfl

/-! ## The edge -/

/-- A reset edge takes no notice of the host's read (R125). -/
theorem step_setRead_of_reset (rd : Bit) (hr : (portIn s).rst = true) : step (setRead rd s) = step s := by
  rw [step_of_reset (s := setRead rd s) hr, step_of_reset hr]
  rfl

/-- At an edge with `rst` 0 the host's read decides the value delivered and nothing else (R47). -/
theorem step_setRead (rd : Bit) (hr : (portIn s).rst = false) (h : step s = .next t) :
    step (setRead rd s) = .next { t with rdata := regRdata (setRead rd s) } := by
  obtain ⟨u, v, w, hu, hv, hw, rfl⟩ := step_parts hr h
  have hu' : selfOffer (setRead rd s).fresh (beginEdge (setRead rd s)) = .next (setRead rd u) :=
    (ignoresRead_selfOffer s.fresh (beginEdge s)).trans (setReadNext_eq_next hu)
  have hv' : hostPart (setRead rd u) = .next (setRead rd v) :=
    (ignoresRead_hostPart u).trans (setReadNext_eq_next hv)
  have hw' : sequencerPart (busy (setRead rd s)) (setRead rd v) = .next (setRead rd w) :=
    (ignoresRead_sequencerPart (busy s) v).trans (setReadNext_eq_next hw)
  rw [step_of_run (s := setRead rd s) hr, runEdge, hu', andThen_next, hv', andThen_next, hw', andThen_next]
  rfl

/-- Every edge with `rst` 0 delivers what the host reads in the cycle before it (R47, R51). -/
theorem rdata_of_step (hr : (portIn s).rst = false) (h : step s = .next t) : t.rdata = regRdata s := by
  obtain ⟨u, v, w, -, -, -, rfl⟩ := step_parts hr h
  rfl

/-- Settles O19: every part of an edge ignores `reg_rd`, and the end of the edge alone delivers the value read. -/
theorem hostReadHasNoSideEffect : Obligations.HostReadHasNoSideEffect := by
  refine ⟨fun _ => rfl, fun s t wr idx data h => ⟨?_, ?_⟩, fun _ rd hr => step_setRead_of_reset rd hr⟩
  · rw [rdata_of_step rfl h]
    exact regRead_withHostAccess _ wr true idx data s
  · rw [← setRead_withHostAccess]
    exact step_setRead false rfl h
end Sys2Proof.Machine
end

section
/-! PROOFS. O2, O3, O1, O56: the decoder is the opcode map on the words with RSVD 0, and a word is its two fields, so the
commands and the words that decode to one stand in bijection; then the words of `calib`. -/

namespace Sys2Proof

variable {opc : BitVec 4} {w : Word} {i : Instr} {r : Reject}

/-! ## The opcode map and the fields of a word -/

theorem commandOfOpc_eq_command_iff : commandOfOpc opc = .command i ↔ opc = opcodeOf i := by
  revert opc
  cases i <;> decide

theorem commandOfOpc_eq_illegal_iff : commandOfOpc opc = .illegal r ↔ r = .unassignedOpcode ∧ 8 ≤ opc.toNat := by
  revert opc
  cases r <;> decide

/-- A word is its RSVD above its OPC (R66). -/
theorem rsvdOf_append_opcOf (w : Word) : rsvdOf w ++ opcOf w = w :=
  (BitVec.extractLsb'_append_extractLsb'_eq_extractLsb' (by decide : 4 = 0 + 4)).trans BitVec.extractLsb'_eq_self

/-- The command words have RSVD 0 and their command's OPC (R68). -/
theorem wordFields (i : Instr) : Laws.WordFields.Statement i :=
  match i with
  | .nop => Laws.WordFields.nop
  | .pulse => Laws.WordFields.pulse
  | .readFrame => Laws.WordFields.readFrame
  | .decode => Laws.WordFields.decode
  | .calibrate => Laws.WordFields.calibrate
  | .recordRate => Laws.WordFields.recordRate
  | .acquire => Laws.WordFields.acquire
  | .run => Laws.WordFields.run

/-! ## Decoding -/

theorem decodeWord_eq_command_iff : decodeWord w = .command i ↔ rsvdOf w = 0#28 ∧ opcOf w = opcodeOf i := by
  unfold decodeWord
  split
  · next h => rw [commandOfOpc_eq_command_iff]; simp [h]
  · next h => simp [h]

theorem decodeWord_eq_illegal_iff :
    decodeWord w = .illegal r ↔
      if rsvdOf w = 0#28 then r = .unassignedOpcode ∧ 8 ≤ (opcOf w).toNat else r = .reservedBits := by
  unfold decodeWord
  split
  · exact commandOfOpc_eq_illegal_iff
  · simp [eq_comm]

/-- The illegal words (R70). -/
theorem decodeWord_illegal_iff : (∃ r, decodeWord w = .illegal r) ↔ rsvdOf w ≠ 0#28 ∨ 8 ≤ (opcOf w).toNat := by
  simp only [decodeWord_eq_illegal_iff]
  split
  · next h => simp [h]
  · next h => simp [h]

theorem decodeWord_encode (i : Instr) : decodeWord (encode i) = .command i := by
  obtain ⟨hrsvd, hopc, -⟩ := wordFields i
  exact decodeWord_eq_command_iff.mpr ⟨hrsvd, hopc⟩

theorem eq_encode_of_decodeWord (h : decodeWord w = .command i) : w = encode i := by
  obtain ⟨hrsvd, hopc⟩ := decodeWord_eq_command_iff.mp h
  rw [← rsvdOf_append_opcOf w, hrsvd, hopc, encode]

/-- Settles O2: a word decodes to `i` exactly when its fields are 0 and the OPC of `i`, and its fields make the word. -/
theorem decodingInvertsEncoding : Obligations.DecodingInvertsEncoding :=
  ⟨decodeWord_encode, fun _ _ => eq_encode_of_decodeWord⟩

/-- Settles O1: the first eight words are encodings by definition; the other eight decode by evaluation. -/
theorem commandWordsDecode : Obligations.CommandWordsDecode := by
  refine ⟨decodeWord_encode .nop, decodeWord_encode .pulse, decodeWord_encode .readFrame, decodeWord_encode .decode,
    decodeWord_encode .calibrate, decodeWord_encode .recordRate, decodeWord_encode .acquire, decodeWord_encode .run,
    fun k h8 h16 => ?_⟩
  interval_cases k <;> rfl

end Sys2Proof

namespace Sys2Proof.Machine

variable {w : Word} {i : Instr}

theorem offerWord_of_illegal {r : Reject} (s : State) (h : decodeWord w = .illegal r) :
    offerWord w s = .next (raiseErr .illegalCmd s) := by
  rw [offerWord, h]

theorem offerWord_of_command (s : State) (h : decodeWord w = .command i) : offerWord w s = exec i s := by
  rw [offerWord, h]

/-- Settles O3: which words are illegal does not depend on the state, and the offer of one is the error alone. -/
theorem illegalWordsOnlyRaise : Obligations.IllegalWordsOnlyRaise := by
  refine fun w s => ⟨decodeWord_illegal_iff, fun hw => ?_⟩
  obtain ⟨r, hr⟩ := decodeWord_illegal_iff.mpr hw
  exact offerWord_of_illegal s hr

/-! ## The pseudo-instruction calib -/

/-- The XOR with the sign mask undoes itself (R87). -/
theorem decodeFrame_decodeFrame (a : U24) : decodeFrame (decodeFrame a) = a := by
  simp [decodeFrame]

/-- The value `calib r` writes to ARG is R87's function of `r`. -/
theorem ofNat_xor_signMask (r : Nat) : BitVec.ofNat 24 (r ^^^ 0x800000) = decodeFrame (BitVec.ofNat 24 r) := by
  simp [decodeFrame, Config.signMask, BitVec.ofNat_xor]

/-- Settles O56: the lines of the expansion in order, and R87's function applied twice. -/
theorem calibPseudoEncodes : Obligations.CalibPseudoEncodes := by
  refine fun r l _ => ⟨rfl, ?_⟩
  rw [ofNat_xor_signMask, decodeFrame_decodeFrame]

end Sys2Proof.Machine
end

section
/-! PROOFS. O4, O10: the offer of a command, decided by the checks of R69, and the edge at which the host makes it. -/

namespace Sys2Proof.Machine

variable {s t u : State} {w : Word} {i : Instr}

/-! ## The checks -/

/-- SCALE is valid when its exponent field is not all ones and its low 63 bits are not all zero (R21). -/
theorem f64Valid_iff (x : F64) : f64Valid x = true ↔ x.extractLsb' 52 11 ≠ 0x7FF#11 ∧ x.extractLsb' 0 63 ≠ 0#63 := by
  have hexp : f64Exponent x = 0x7FF ↔ x.extractLsb' 52 11 = 0x7FF#11 := BitVec.toNat_inj (y := 0x7FF#11)
  rw [f64Valid, Bool.and_eq_true, decide_eq_true_iff, decide_eq_true_iff, ne_eq, hexp]

theorem needsScale_iff : needsScale i = true ↔ i = .calibrate ∨ i = .acquire ∨ i = .run := by
  cases i <;> decide

/-- A command that needs SCALE, offered to an idle block whose SCALE is not valid, is turned away (R69). -/
theorem exec_of_invalidScale (hb : busy s = false) (hn : needsScale i = true) (hv : scaleValid s = false) :
    exec i s = .next (raiseErr .cfgScale s) := by
  cases i with
  | nop | pulse | readFrame | decode | recordRate => cases hn
  | calibrate | acquire | run => exact congrArg Host.Outcome.next (offer_cfgScale _ _ hb hn hv)

/-- A command that passes the checks is in OP after its offer, and the block is busy (R69, R36). -/
theorem exec_of_accepted (hi : i ≠ .nop) (hb : busy s = false) (hv : needsScale i = true → scaleValid s = true) :
    ∃ t, exec i s = .next t ∧ t.op = i ∧ busy t = true := by
  cases i with
  | nop => exact absurd rfl hi
  | pulse | readFrame | decode | calibrate | recordRate | acquire | run =>
    exact ⟨_, congrArg Host.Outcome.next (offer_accepted _ _ hb hv), rfl, rfl⟩

/-- The error report stays where no check turns the command away (R69). -/
theorem error_of_accepted (hb : busy s = false)
    (hv : ¬ ((i = .calibrate ∨ i = .acquire ∨ i = .run) ∧ f64Valid s.scale = false)) (h : exec i s = .next t) :
    t.errP = s.errP ∧ t.errCode = s.errCode := by
  by_contra hchanged
  obtain ⟨-, hbusy | hscale⟩ := (offerFrame_of_exec i h).err (not_and_or.mp hchanged)
  · exact absurd hbusy (by simp [hb])
  · exact hv hscale

/-- The offer of a command leaves the output record alone (R69). -/
theorem sameRecord_exec (h : exec i s = .next t) : sameRecord s t := by
  have hkeep := hostKeeps_exec h
  simp only [hostKeeps, Prod.mk.injEq] at hkeep
  obtain ⟨raw, value, rate, count, -, -, -, start, -⟩ := hkeep
  exact ⟨raw, value, rate, count, start⟩

/-- The offer of a command leaves alone what the frame reader and PULSE collect (R69). -/
theorem sameSamples_exec (h : exec i s = .next t) : sameSamples s t := by
  have hkeep := hostKeeps_exec h
  simp only [hostKeeps, Prod.mk.injEq] at hkeep
  obtain ⟨-, -, -, -, acc, bitcnt, lastBit, -⟩ := hkeep
  exact ⟨acc, bitcnt, lastBit⟩

/-- Settles O4: the checks in their order; what the accepted command leaves alone is the frame of every offer. -/
theorem acceptanceFollowsTheChecks : Obligations.AcceptanceFollowsTheChecks := by
  refine ⟨f64Valid_iff, fun w s => ?_⟩
  cases hd : decodeWord w with
  | illegal r => exact offerWord_of_illegal s hd
  | command i =>
    simp only [offerWord_of_command s hd]
    split_ifs with hi hb hs
    · rw [hi]; rfl
    · rw [exec_of_busy i hb, if_neg hi]
    · exact exec_of_invalidScale (by simpa using hb) (needsScale_iff.mpr hs.1) hs.2
    · have hidle : busy s = false := by simpa using hb
      have hvalid : needsScale i = true → scaleValid s = true := fun hn =>
        Bool.of_not_eq_false fun hv => hs ⟨needsScale_iff.mp hn, hv⟩
      obtain ⟨t, ht, hop, hbusy⟩ := exec_of_accepted hi hidle hvalid
      have hframe := offerFrame_of_exec i ht
      obtain ⟨herrP, herrCode⟩ := error_of_accepted hidle hs ht
      exact ⟨t, ht, hop, hbusy, hframe.d, hframe.f, herrP, herrCode, hframe.cfg, sameRecord_exec ht,
        sameSamples_exec ht⟩

/-! ## The edge of the offer -/

theorem offersWord_congr (h : portIn u = portIn s) : u.offersWord w ↔ s.offersWord w := by
  rw [State.offersWord, State.offersWord, h]

/-- The host's part of an edge at which it writes CMD is the offer of the written word (R49). -/
theorem hostPart_of_offersWord (h : u.offersWord w) : hostPart u = offerWord w u := by
  obtain ⟨-, hwr, hcmd, hdata⟩ := h
  rw [hostPart, if_pos hwr, hcmd, regWrite, hdata]

/-- The block's own offer leaves the input ports alone. -/
theorem portIn_selfOffer {first : Bool} (h : selfOffer first s = .next u) : portIn u = portIn s := by
  obtain ⟨hin, hedges, -⟩ := (offerFrame_of_selfOffer h).inp
  exact portIn_congr hin hedges

/-- Settles O10: the host's part is `exec i` after the block's own offer, which leaves the ports alone. -/
theorem stepRunsTheOfferedCommand : Obligations.StepRunsTheOfferedCommand := by
  intro s w i h hd
  have hrst : (portIn s).rst = false := h.1
  have hhost {u : State} (hu : portIn u = portIn s) : hostPart u = exec i u := by
    rw [hostPart_of_offersWord ((offersWord_congr hu).mpr h), offerWord_of_command u hd]
  refine ⟨?_, fun hb hs => ?_⟩
  · obtain ⟨u, hu⟩ := selfOffer_next s.fresh (beginEdge s)
    have hports : portIn u = portIn s := portIn_selfOffer (s := beginEdge s) hu
    rw [step_of_run hrst, runEdge, hu, andThen_next, andThen_next, hhost hports]
  · rw [step_of_idle hrst hb hs, hhost (u := beginEdge s) rfl]

end Sys2Proof.Machine
end

section
/-! PROOFS. O6, O37, O38: the two halves of a pulse. An edge begins a Wait (`State.leadsTo`), the Wait holds all that no
host can touch (`held`), and the edge that ends it makes the next action (R74, R76, R137). -/

namespace Sys2Proof.Machine

variable {s t u v x : State} {k m n : Nat}

/-- Settles O6: an idle block accepts PULSE, which has no SCALE to check. -/
theorem pulseStartsAtTheOffer : Obligations.PulseStartsAtTheOffer := fun _ hb =>
  congrArg Host.Outcome.next (offer_accepted .pulse startPulse hb nofun)

/-! ## Runs -/

/-- Every edge uses up the input levels of its cycle (R13). -/
theorem inputs_of_step (h : step s = .next t) : t.inputs = s.inputs.tail := by
  cases hr : (portIn s).rst with
  | true =>
    rw [step_of_reset hr] at h
    cases h
    rfl
  | false => exact (step_frame hr h).2.1

theorem runEvents_succ (h : step s = .next t) :
    runEvents (k + 1) s = (runEvents k t).map fun r => (t.pinEvents ++ r.1, r.2) := by
  simp only [runEvents, h]

theorem inputs_of_runEvents {e : List PinEvent} (h : runEvents k s = some (e, t)) :
    t.inputs = s.inputs.drop k := by
  induction k generalizing s e with
  | zero => cases h; rfl
  | succ k ih =>
    cases hs : step s with
    | next u =>
      rw [runEvents_succ hs, Option.map_eq_some_iff] at h
      obtain ⟨r, hr, hrt⟩ := h
      cases hrt
      rw [ih hr, inputs_of_step hs, ← List.drop_one, List.drop_drop, Nat.add_comm]
    | fault | refused => simp [runEvents, hs] at h

/-- With no reset in `m + n` cycles, none comes in the `n` cycles after a run of `m`. -/
theorem noReset_of_runEvents {e : List PinEvent} (h : runEvents m s = some (e, t)) (hn : s.noReset (m + n)) :
    t.noReset n :=
  noReset_drop hn (inputs_of_runEvents h)

/-- A run goes on from where another ends, its events after the other's. -/
theorem runEvents_append {e f : List PinEvent} (h : runEvents m s = some (e, u)) (g : runEvents n u = some (f, t)) :
    runEvents (m + n) s = some (e ++ f, t) := by
  rw [runEvents_add, h, Option.bind_some, g, Option.map_some]

/-! ## What a Wait holds -/

/-- The state with every field blanked that an edge inside a Wait may change: CNT, the pending bits, the error record,
CTRL, and what every edge writes (R137). -/
def held (s : State) : State :=
  { s with
    cnt := 0#32, doneP := false, frameP := false, errP := false, errCode := .none, ctrl := 0#3, sync := []
    fvQ := false, fresh := false, inputs := [], edges := 0, rdata := 0#64, pinEvents := [], edgeErr := none }

theorem busy_of_held (h : held t = held s) : busy t = busy s := busy_congr (congrArg State.seq h :)

theorem sameConfig_of_held (h : held t = u) (hu : sameConfig s u) : sameConfig s t := by subst h; exact hu

theorem sameRecord_of_held (h : held t = u) (hu : sameRecord s u) : sameRecord s t := by subst h; exact hu

theorem sameSamples_of_held (h : held t = u) (hu : sameSamples s u) : sameSamples s t := by subst h; exact hu

/-- An edge inside a Wait, whatever the host does. -/
theorem step_held (hr : (portIn s).rst = false) (hb : busy s = true) (hc : 1 < s.cnt.toNat) :
    ∃ t, step s = .next t ∧ t.pinEvents = [] ∧ held t = held s ∧ t.cnt.toNat + 1 = s.cnt.toNat := by
  obtain ⟨d, f, e, c, k, g, h, -⟩ := step_of_waiting hr hb hc
  refine ⟨_, h, rfl, rfl, ?_⟩
  show (s.cnt - 1#32).toNat + 1 = s.cnt.toNat
  bv_omega

/-- A run of fewer edges than CNT counts stays inside the Wait (R137). -/
theorem runEvents_held (hb : busy s = true) (hk : k < s.cnt.toNat) (hn : s.noReset k) :
    ∃ t, runEvents k s = some ([], t) ∧ held t = held s ∧ t.cnt.toNat + k = s.cnt.toNat := by
  induction k generalizing s with
  | zero => exact ⟨s, rfl, rfl, rfl⟩
  | succ k ih =>
    obtain ⟨u, hu, hev, hheld, hcnt⟩ := step_held (rst_of_noReset hn) hb (by omega)
    have hnu : u.noReset k := noReset_of_runEvents (runEvents_one hu) (by rwa [Nat.add_comm])
    obtain ⟨t, ht, hheld', hcnt'⟩ := ih ((busy_of_held hheld).trans hb) (by omega) hnu
    exact ⟨t, by rw [runEvents_succ hu, ht, hev]; rfl, hheld'.trans hheld, by omega⟩

/-- The coming edge makes the port events `e` and begins Wait(n); `x` is the state it leaves, as far as the Wait holds
it (R137). -/
def State.leadsTo (s : State) (e : List PinEvent) (n : Word) (x : State) : Prop :=
  ∃ t, step s = .next t ∧ t.pinEvents = e ∧ t.cnt = n ∧ held t = x

section Wait

variable {e : List PinEvent} {c : Word} (h : s.leadsTo e c x) (hx : x.seq ≠ .idle)
include h hx

/-- After `k` edges, the one that begins the Wait among them, the Wait holds still, and that edge's port events are the
only ones (R137). -/
theorem runEvents_of_leadsTo (h1 : 1 ≤ k) (hk : k ≤ c.toNat) (hn : s.noReset k) :
    ∃ v, runEvents k s = some (e, v) ∧ held v = x ∧ v.cnt.toNat + k = c.toNat + 1 := by
  obtain ⟨u, hu, rfl, rfl, rfl⟩ := h
  obtain ⟨j, rfl⟩ := Nat.exists_eq_add_of_le h1
  have hrun := runEvents_one hu
  obtain ⟨v, hv, hheld, hcnt⟩ := runEvents_held (s := u) (busy_iff.mpr hx) (by omega : j < u.cnt.toNat)
    (noReset_of_runEvents hrun hn)
  exact ⟨v, by rw [runEvents_append hrun hv, List.append_nil], hheld, by omega⟩

/-- After all its cycles the Wait is at its last one, and the next edge makes the next action (R137). -/
theorem acts_of_leadsTo (hc : 1 ≤ c.toNat) (hn : s.noReset (c.toNat + 1)) :
    ∃ v, runEvents c.toNat s = some (e, v) ∧ held v = x ∧ v.acts := by
  obtain ⟨v, hv, hheld, hcnt⟩ := runEvents_of_leadsTo h hx hc (Nat.le_refl _) (noReset_mono hn (by omega))
  have hseq : v.seq = x.seq := (congrArg State.seq hheld :)
  exact ⟨v, hv, hheld, rst_of_noReset (noReset_of_runEvents hv hn), busy_iff.mpr (hseq ▸ hx),
    waitEnds_iff.mpr (by omega)⟩

end Wait

/-- A pulse: the rise begins one Wait and the fall that ends it another, so each half holds for its `c` cycles, and the
next edge makes the action after the pulse (R74, R76, R137). -/
theorem runEvents_of_halves {e : List PinEvent} {f : State → List PinEvent} {c : Word} {y : State → State}
    (rise : s.leadsTo e c x) (hx : x.seq ≠ .idle) (fall : ∀ u, u.acts → held u = x → u.leadsTo (f u) c (y u))
    (hy : ∀ u, (y u).seq ≠ .idle) (hc : 1 ≤ c.toNat) (hn : s.noReset (1 + 2 * c.toNat)) :
    ∃ u w, runEvents c.toNat s = some (e, u)
      ∧ (∀ k, 1 ≤ k → k ≤ c.toNat → ∃ v, runEvents k s = some (e, v) ∧ held v = x)
      ∧ (∀ k, c.toNat < k → k ≤ 2 * c.toNat → ∃ v, runEvents k s = some (e ++ f u, v) ∧ held v = y u)
      ∧ runEvents (2 * c.toNat) s = some (e ++ f u, w) ∧ held w = y u ∧ w.acts := by
  obtain ⟨u, hu, hheldu, hactu⟩ := acts_of_leadsTo rise hx hc (noReset_mono hn (by omega))
  have hnu : u.noReset (c.toNat + 1) := noReset_of_runEvents hu (noReset_mono hn (by omega))
  have low := fall u hactu hheldu
  obtain ⟨w, hw, hheldw, hactw⟩ := acts_of_leadsTo low (hy u) hc hnu
  refine ⟨u, w, hu, fun k h1 hk => ?_, fun k hk h2 => ?_, ?_, hheldw, hactw⟩
  · obtain ⟨v, hv, hheldv, -⟩ := runEvents_of_leadsTo rise hx h1 hk (noReset_mono hn (by omega))
    exact ⟨v, hv, hheldv⟩
  · obtain ⟨j, rfl⟩ := Nat.exists_eq_add_of_le hk.le
    obtain ⟨v, hv, hheldv, -⟩ := runEvents_of_leadsTo low (hy u) (k := j) (by omega) (by omega)
      (noReset_mono hnu (by omega))
    exact ⟨v, runEvents_append hu hv, hheldv⟩
  · rw [Nat.two_mul]
    exact runEvents_append hu hw

/-! ## The edges of a pulse -/

/-- The edge of an accepted offer makes the command's first action (R69). -/
theorem step_of_offersCommand {i : Instr} (h : s.offersCommand i) (he : exec i (beginEdge s) = .next u) :
    step s = .next (finishEdge (regRdata s) u) := by
  obtain ⟨hw, hb, hs⟩ := h
  rw [(stepRunsTheOfferedCommand s (encode i) i hw (decodeWord_encode i)).2 hb hs, he]
  rfl

/-- The edge at which PULSE is accepted (R78). -/
theorem step_startPulse (h : s.offersCommand .pulse) :
    s.leadsTo [.write true] s.settle
      { held s with op := .pulse, seq := .clocking, phase := .high, sckQ := true } :=
  ⟨_, step_of_offersCommand h (pulseStartsAtTheOffer (beginEdge s) h.2.1), rfl, rfl, rfl⟩

/-- The edge at which RUN is accepted (R103, R76). -/
theorem step_startRun (h : s.offersCommand .run) (hv : f64Valid s.scale = true) :
    s.leadsTo [.write true] s.settle
      { held s with op := .run, running := true, seq := .init, phase := .high, sckQ := true } :=
  ⟨_, step_of_offersCommand h
    (congrArg Host.Outcome.next (offer_accepted (s := beginEdge s) .run startRun h.2.1 fun _ => hv)), rfl, rfl, rfl⟩

/-- At an edge that acts, the host's part leaves the place and the operands of the action `act` as they were. -/
theorem step_of_nextAction {act : State → State} (h : s.acts)
    (hact : ∀ u, u.seq = s.seq → u.phase = s.phase → u.op = s.op → nextAction u = .next (act u)) :
    ∃ d f e c k g, step s = .next (finishEdge (regRdata s) (act (hostTouched (beginEdge s) d f e c k g))) := by
  obtain ⟨d, f, e, c, k, g, hs, -⟩ := step_of_acts h
  exact ⟨d, f, e, c, k, g, by rw [hs, hact (hostTouched (beginEdge s) d f e c k g) rfl rfl rfl, andThen_next]⟩

section Edges

variable (h : s.acts) (hx : held s = x)
include h hx

/-- The edge at which PULSE samples and SCK falls (R74, R78). -/
theorem step_samplePulse (hq : x.seq = .clocking) (hp : x.phase = .high) (ho : x.op = .pulse) :
    s.leadsTo [.read (doutLevel s), .write false] x.settle
      { x with phase := .low, sckQ := false, pulseBit := doutLevel s } := by
  subst hx
  obtain ⟨d, f, e, c, k, g, hs⟩ := step_of_nextAction h fun u uq up uo =>
    nextAction_pulse_high (uq.trans hq) (up.trans hp) (uo.trans ho)
  exact ⟨_, hs, rfl, rfl, rfl⟩

/-- The edge at which PULSE commits its bit (R78). -/
theorem step_commitPulse (hq : x.seq = .clocking) (hp : x.phase = .low) (ho : x.op = .pulse) :
    ∃ t, step s = .next t ∧ t.pinEvents = [] ∧ t.doneP = true
      ∧ held t = { x with lastBit := x.pulseBit, seq := .idle, op := .nop } := by
  subst hx
  obtain ⟨d, f, e, c, k, g, hs⟩ := step_of_nextAction h fun u uq up uo =>
    nextAction_pulse_low (uq.trans hq) (up.trans hp) (uo.trans ho)
  exact ⟨_, hs, rfl, rfl, rfl⟩

/-- The edge at which SCK falls in the idle pulse, with no sample (R76). -/
theorem step_idlePulseFall (hq : x.seq = .init) (hp : x.phase = .high) :
    s.leadsTo [.write false] x.settle { x with phase := .low, sckQ := false } := by
  subst hx
  obtain ⟨d, f, e, c, k, g, hs⟩ := step_of_nextAction h fun u uq up _ =>
    nextAction_init_high (uq.trans hq) (up.trans hp)
  exact ⟨_, hs, rfl, rfl, rfl⟩

/-- The edge that ends the idle pulse begins the wait for data ready (R103, R79). -/
theorem step_idlePulseEnd (hq : x.seq = .init) (hp : x.phase = .low) :
    s.leadsTo [] 1#32 { x with seq := .poll, polls := 0#32 } := by
  subst hx
  obtain ⟨d, f, e, c, k, g, hs⟩ := step_of_nextAction h fun u uq up _ =>
    nextAction_init_low (uq.trans hq) (up.trans hp)
  exact ⟨_, hs, rfl, rfl, rfl⟩

end Edges

/-! ## The two waveforms -/

theorem one_le_settle (h : s.Inv) : 1 ≤ s.settle.toNat := by
  obtain ⟨-, ⟨hsettle, -⟩, -⟩ := h
  bv_omega

/-- Settles O37: the halves of the pulse begin at the offer and at the sample, and the commit follows them. -/
theorem pulseWaveform : Obligations.PulseWaveform := by
  intro s hinv hoffer hn
  obtain ⟨u, w, hu, hhigh, hlow, hw, hheldw, hactw⟩ := runEvents_of_halves (step_startPulse hoffer) nofun
    (fun u ha hu => (step_samplePulse ha hu rfl rfl rfl :)) (fun _ => nofun) (one_le_settle hinv) hn
  obtain ⟨t, ht, hevents, hdone, hheldt⟩ := step_commitPulse hactw hheldw rfl rfl rfl
  have hrun := runEvents_append hw (runEvents_one ht)
  rw [hevents, Nat.add_comm] at hrun
  refine ⟨u, t, hu, fun k h1 hk => ?_, fun k h1 hk => ?_, hrun, (congrArg State.lastBit hheldt :),
    (congrArg State.seq hheldt :), (congrArg State.op hheldt :), hdone, (congrArg State.acc hheldt :),
    (congrArg State.bitcnt hheldt :), sameRecord_of_held hheldt ⟨rfl, rfl, rfl, rfl, rfl⟩,
    sameConfig_of_held hheldt (sameConfig_refl s)⟩
  · obtain ⟨v, hv, hheldv⟩ := hhigh k h1 hk
    exact ⟨v, hv, (congrArg State.sckQ hheldv :), (congrArg State.seq hheldv :), (congrArg State.lastBit hheldv :)⟩
  · obtain ⟨v, hv, hheldv⟩ := hlow k h1 hk
    exact ⟨v, hv, (congrArg State.sckQ hheldv :), (congrArg State.seq hheldv :), (congrArg State.lastBit hheldv :)⟩

/-- Settles O38: the halves of the idle pulse begin at the offer and at the fall, and the first wait follows them. -/
theorem idlePulseWaveform : Obligations.IdlePulseWaveform := by
  intro s hinv hoffer hscale hn
  obtain ⟨u, w, -, hhigh, hlow, hw, hheldw, hactw⟩ := runEvents_of_halves (step_startRun hoffer hscale) nofun
    (fun u ha hu => (step_idlePulseFall ha hu rfl rfl :)) (fun _ => nofun) (one_le_settle hinv) hn
  obtain ⟨t, ht, hevents, hcnt, hheldt⟩ := step_idlePulseEnd hactw hheldw rfl rfl
  have hrun := runEvents_append hw (runEvents_one ht)
  rw [hevents, Nat.add_comm] at hrun
  refine ⟨t, fun k h1 hk => ?_, fun k h1 hk => ?_, hrun, (congrArg State.seq hheldt :), (congrArg State.op hheldt :),
    (congrArg State.polls hheldt :), hcnt, (congrArg State.running hheldt :), (congrArg State.sckQ hheldt :),
    sameSamples_of_held hheldt ⟨rfl, rfl, rfl⟩, sameRecord_of_held hheldt ⟨rfl, rfl, rfl, rfl, rfl⟩,
    sameConfig_of_held hheldt (sameConfig_refl s)⟩
  · obtain ⟨v, hv, hheldv⟩ := hhigh k h1 hk
    exact ⟨v, hv, (congrArg State.sckQ hheldv :), (congrArg State.seq hheldv :)⟩
  · obtain ⟨v, hv, hheldv⟩ := hlow k h1 hk
    exact ⟨v, hv, (congrArg State.sckQ hheldv :), (congrArg State.seq hheldv :)⟩

end Sys2Proof.Machine
end

section
/-! PROOFS. O7, O8, O49: the first actions of the commands that wait for a frame or process one, and the XOR of R87. -/

namespace Sys2Proof.Machine

/-- Settles O7: an idle block accepts both, ACQUIRE when SCALE is valid, and the first action of both is `beginWait`. -/
theorem frameCommandsStartWaiting : Obligations.FrameCommandsStartWaiting := fun _ hb =>
  ⟨congrArg Host.Outcome.next (offer_accepted .readFrame beginWait hb nofun),
    fun hv => congrArg Host.Outcome.next (offer_accepted .acquire beginWait hb fun _ => hv),
    fun hv => exec_of_invalidScale hb rfl hv⟩

/-- Settles O8: an idle block accepts all three, CALIBRATE when SCALE is valid, and the first action of each is
`beginProcess`. -/
theorem processCommandsEnterProcess : Obligations.ProcessCommandsEnterProcess := fun _ hb =>
  ⟨congrArg Host.Outcome.next (offer_accepted .decode beginProcess hb nofun),
    congrArg Host.Outcome.next (offer_accepted .recordRate beginProcess hb nofun),
    fun hv => congrArg Host.Outcome.next (offer_accepted .calibrate beginProcess hb fun _ => hv),
    fun hv => exec_of_invalidScale hb rfl hv⟩

/-! ## The XOR decode -/

/-- The XOR with bit 23 flips bit 23 and keeps the bits below it (R87). -/
theorem toNat_decodeFrame (a : U24) :
    (decodeFrame a).toNat = 2 ^ 23 * (a.toNat / 2 ^ 23 ^^^ 1) + a.toNat % 2 ^ 23 := by
  have hmask : (decodeFrame a).toNat = a.toNat ^^^ 2 ^ 23 := BitVec.toNat_xor a Config.signMask
  have hlow : (a.toNat ^^^ 2 ^ 23) % 2 ^ 23 = a.toNat % 2 ^ 23 := by
    rw [Nat.xor_mod_two_pow, Nat.mod_self, Nat.xor_zero]
  have hhigh : (a.toNat ^^^ 2 ^ 23) / 2 ^ 23 = a.toNat / 2 ^ 23 ^^^ 1 := by
    rw [Nat.xor_div_two_pow, Nat.div_self (Nat.two_pow_pos 23)]
  rw [hmask, ← hlow, ← hhigh, Nat.div_add_mod]

/-- Flipping the sign bit is adding 2^23 to the two's complement value (R87). -/
theorem toNat_decodeFrame_eq_toInt_add (a : U24) : ((decodeFrame a).toNat : Int) = a.toInt + 2 ^ 23 := by
  rw [toNat_decodeFrame, BitVec.toInt_eq_toNat_cond]
  rcases Nat.lt_or_ge a.toNat (2 ^ 23) with hpos | hneg
  · have hsign : a.toNat / 2 ^ 23 ^^^ 1 = 1 := by rw [Nat.div_eq_of_lt hpos, Nat.zero_xor]
    rw [hsign]
    omega
  · have hone : a.toNat / 2 ^ 23 = 1 := by omega
    rw [hone, Nat.xor_self]
    omega

/-- Settles O49: the XOR undoes itself, so it is a bijection, and it flips the sign bit. -/
theorem decodeIsOffsetBinary : Obligations.DecodeIsOffsetBinary := fun a =>
  ⟨rfl, decodeFrame_decodeFrame a, ⟨decodeFrame a, decodeFrame_decodeFrame a⟩, toNat_decodeFrame_eq_toInt_add a⟩

end Sys2Proof.Machine
end

section
/-! PROOFS. O33, O34, O36, O41, O57: one edge of a wait for data ready, of a back-off or a DELAY, and of PROCESS. -/

namespace Sys2Proof.Machine

variable {s t u v : State}

/-! ## What a Wait holds of the parts of an edge -/

theorem held_finishEdge (d : U64) (u : State) : held (finishEdge d u) = held u := rfl

theorem held_complete (u : State) : held (complete u) = { held u with seq := .idle, op := .nop } := rfl

theorem held_raiseErr (c : ErrCode) (u : State) : held (raiseErr c u) = held u := rfl

theorem held_hostTouched (d f e : Bit) (c : ErrCode) (k : BitVec 3) (g : Option ErrCode) (s : State) :
    held (hostTouched (beginEdge s) d f e c k g) = held s := rfl

theorem held_beginWait (u : State) : held (beginWait u) = { held u with seq := .poll, polls := 0#32 } := rfl

theorem held_beginBackoff (u : State) : held (beginBackoff u) = { held u with seq := .backoff } := rfl

theorem held_enterDelay (u : State) :
    held (waitFor u.interframe { u with seq := .delay }) = { held u with seq := .delay } := rfl

theorem held_pinRead_withPolls (p : Word) (s : State) :
    held { pinRead (beginEdge s) with polls := p } = { held s with polls := p } := rfl

/-! ## Edges that end a Wait -/

/-- The edge that ends a Wait makes the action `act`, where the host's part takes nothing away that `act` needs; no
host's write raises DONE_P (R61, R18). -/
theorem step_of_action {act : State → State} (h : s.acts)
    (hact : ∀ d f e c k g, nextAction (hostTouched (beginEdge s) d f e c k g)
      = .next (act (hostTouched (beginEdge s) d f e c k g))) :
    ∃ d f e c k g, step s = .next (finishEdge (regRdata s) (act (hostTouched (beginEdge s) d f e c k g)))
      ∧ (d = true → s.doneP = true) := by
  obtain ⟨d, f, e, c, k, g, hs, hd, -⟩ := step_of_acts h
  exact ⟨d, f, e, c, k, g, by rw [hs, hact, andThen_next], hd⟩

/-- The edge of a ready poll: SCK rises and the first pulse of the frame begins (R79, R82). -/
theorem step_pollReady (h : s.acts) (hq : s.seq = .poll) (hd : doutLevel s = false) :
    s.leadsTo [.read false, .write true] s.settle
      { held s with seq := .clocking, acc := 0#24, bitcnt := 0#5, phase := .high, sckQ := true } := by
  obtain ⟨d, f, e, c, k, g, hs, -⟩ := step_of_action (act := fun u => beginClocking (pinRead u)) h
    fun _ _ _ _ _ _ => nextAction_poll_ready hq hd
  have hevents : [PinEvent.read (doutLevel s), .write true] = [.read false, .write true] := by rw [hd]
  exact ⟨_, hs, hevents, rfl, rfl⟩

/-- The edge that ends RUN's DELAY (R103, R104). -/
theorem step_delayEnd (h : s.acts) (hq : s.seq = .delay) :
    ∃ t, step s = .next t ∧ t.pinEvents = [] ∧ t.cnt = 1#32 ∧ (t.doneP = true → s.doneP = true)
      ∧ held t = { held s with seq := .poll, polls := 0#32 } := by
  obtain ⟨d, f, e, c, k, g, hs, hdone⟩ := step_of_action h fun _ _ _ _ _ _ => nextAction_delay hq
  exact ⟨_, hs, rfl, rfl, hdone, rfl⟩

/-- The edge that ends a back-off (R79). -/
theorem step_backoffEnd (h : s.acts) (hq : s.seq = .backoff) :
    ∃ t, step s = .next t ∧ t.pinEvents = [] ∧ t.cnt = 1#32 ∧ (t.doneP = true → s.doneP = true)
      ∧ held t = { held s with seq := .poll } := by
  obtain ⟨d, f, e, c, k, g, hs, hdone⟩ := step_of_action h fun _ _ _ _ _ _ => nextAction_backoff hq
  exact ⟨_, hs, rfl, rfl, hdone, rfl⟩

theorem processEnd_readFrame (ho : u.op = .readFrame) : processEnd u = .next (commitReadFrame u) := by
  rw [processEnd, ho]

/-- The commit of READ_FRAME (R88). -/
theorem step_commitReadFrame (h : s.acts) (hq : s.seq = .process) (ho : s.op = .readFrame) :
    ∃ t, step s = .next t ∧ t.pinEvents = [] ∧ t.doneP = true ∧ t.fvQ = false
      ∧ held t = { held s with raw := s.dTmp, seq := .idle, op := .nop } := by
  obtain ⟨d, f, e, c, k, g, hs, -⟩ := step_of_action (act := commitReadFrame) h fun d f e c k g =>
    (nextAction_process (s := hostTouched (beginEdge s) d f e c k g) hq).trans (processEnd_readFrame ho)
  exact ⟨_, hs, rfl, rfl, rfl, rfl⟩

/-- Settles O41: at that edge READ_FRAME writes RAW, and what it returns to IDLE with. -/
theorem readFrameCommit : Obligations.ReadFrameCommit := by
  intro s h hq ho
  obtain ⟨t, hs, -, hdone, hfv, hheld⟩ := step_commitReadFrame h hq ho
  exact ⟨t, hs, (congrArg State.raw hheld :), (congrArg State.seq hheld :), (congrArg State.op hheld :), hdone, hfv,
    (congrArg State.value hheld :), (congrArg State.rate hheld :), (congrArg State.frameCount hheld :),
    (congrArg State.startTime hheld :), sameSamples_of_held hheld ⟨rfl, rfl, rfl⟩,
    sameConfig_of_held hheld (sameConfig_refl s)⟩

/-- Settles O33: the ready poll clears ACC and BITCNT, and begins the high half of the first pulse. -/
theorem readyPollStartsClocking : Obligations.ReadyPollStartsClocking := by
  intro s _ h hq hd
  obtain ⟨t, hs, hevents, hcnt, hheld⟩ := step_pollReady h hq hd
  exact ⟨t, hs, (congrArg State.seq hheld :), (congrArg State.op hheld :), (congrArg State.acc hheld :),
    (congrArg State.bitcnt hheld :), (congrArg State.phase hheld :), (congrArg State.sckQ hheld :), hcnt, hevents,
    (congrArg State.lastBit hheld :), sameRecord_of_held hheld ⟨rfl, rfl, rfl, rfl, rfl⟩,
    sameConfig_of_held hheld (sameConfig_refl s)⟩

/-- A state that holds all of `s` but the place of the sequencer has its record, samples, configuration and SCK. -/
theorem same_of_held_place {q : SeqState} {o : Instr} {p : Word}
    (h : held t = { held s with seq := q, op := o, polls := p }) :
    sameRecord s t ∧ sameSamples s t ∧ sameConfig s t ∧ t.sckQ = s.sckQ :=
  ⟨sameRecord_of_held h ⟨rfl, rfl, rfl, rfl, rfl⟩, sameSamples_of_held h ⟨rfl, rfl, rfl⟩,
    sameConfig_of_held h (sameConfig_refl s), (congrArg State.sckQ h :)⟩

/-- Settles O57: both edges write STATE, CNT and, at the end of DELAY, POLLS; SCK, OP and RUNNING are the
invariant's. -/
theorem delayAndBackoffEndInAPoll : Obligations.DelayAndBackoffEndInAPoll := by
  intro s hinv h
  obtain ⟨-, -, hplace, hrun, -⟩ := inv_iff_placeOk.mp hinv
  refine ⟨fun hq => ?_, fun hq => ?_⟩
  · obtain ⟨⟨hlow, -⟩, -, hop, -⟩ := (placeOk_delay_iff hq).mp hplace
    obtain ⟨t, hs, hevents, hcnt, hdone, hheld⟩ := step_delayEnd h hq
    obtain ⟨hrecord, hsamples, hconfig, hsck⟩ := same_of_held_place hheld
    exact ⟨t, hs, (congrArg State.seq hheld :), (congrArg State.polls hheld :), hcnt,
      (congrArg State.op hheld :).trans hop, (congrArg State.running hheld :).trans (hrun.mpr hop), hevents,
      hsck.trans hlow, hdone, hrecord, hsamples, hconfig⟩
  · obtain ⟨⟨hlow, -⟩, -⟩ := (placeOk_backoff_iff hq).mp hplace
    obtain ⟨t, hs, hevents, hcnt, hdone, hheld⟩ := step_backoffEnd h hq
    obtain ⟨hrecord, hsamples, hconfig, hsck⟩ := same_of_held_place hheld
    exact ⟨t, hs, (congrArg State.seq hheld :), (congrArg State.polls hheld :), hcnt, (congrArg State.op hheld :),
      (congrArg State.running hheld :), hevents, hsck.trans hlow, hdone, hrecord, hsamples, hconfig⟩

/-! ## Waiting makes no pulse -/

/-- A state of Waiting (R80, R99). -/
def State.IsWaiting (s : State) : Prop := s.seq = .delay ∨ s.seq = .poll ∨ s.seq = .backoff ∨ s.seq = .process

/-- At a poll that reads LOW the only PinWrite is the rise of SCK that enters CLOCKING; else there is none and CLOCKING
is not entered (R80, R82). -/
def WaitsWithoutPulse (u v : State) : Prop :=
  ∀ b, (.write b ∈ v.pinEvents ↔ b = true ∧ u.seq = .poll ∧ doutLevel u = false)
    ∧ (v.seq = .clocking ↔ u.seq = .poll ∧ doutLevel u = false)

theorem waitsWithoutPulse_of_no_write (hw : ∀ b, .write b ∉ v.pinEvents) (hv : v.seq ≠ .clocking)
    (hu : ¬ (u.seq = .poll ∧ doutLevel u = false)) : WaitsWithoutPulse u v :=
  fun b => ⟨iff_of_false (hw b) fun h => hu h.2, iff_of_false hv hu⟩

/-- DELAY, or the wait in its place, pulses no more than the state it begins in. -/
theorem waitsWithoutPulse_beginDelay (hw : ∀ b, .write b ∉ v.pinEvents)
    (hu : ¬ (u.seq = .poll ∧ doutLevel u = false)) :
    WaitsWithoutPulse u (beginDelay v) := by
  unfold beginDelay
  split <;> exact waitsWithoutPulse_of_no_write hw nofun hu

/-- The actions that end a Wait of Waiting, one by one. -/
theorem waitsWithoutPulse_of_action (hu : u.IsWaiting) (he : u.pinEvents = []) (ha : Action u v) :
    WaitsWithoutPulse u v := by
  have quiet : ∀ b, PinEvent.write b ∉ u.pinEvents := by simp [he]
  have read : ∀ b, PinEvent.write b ∉ (pinRead u).pinEvents := by simp [he]
  cases ha with
  | none hq | idlePulseFall hq | idlePulseEnd hq | samplePulse hq | commitPulse hq | sampleFrame hq | nextPulse hq
  | endFrame hq => simp [State.IsWaiting, hq] at hu
  | delayEnd hq | backoffEnd hq => exact waitsWithoutPulse_of_no_write quiet nofun (by simp [hq])
  | pollReady hq hd =>
    intro b
    simp [beginClocking, pulseRise, he, hq, hd]
  | pollTimeout _ hd | pollBackoff _ hd => exact waitsWithoutPulse_of_no_write read nofun (by simp [hd])
  | pollTimeoutRun _ hd => exact waitsWithoutPulse_beginDelay read (by simp [hd])
  | commitReadFrame hq | commitDecode hq | commitCalibrate hq | commitRecordRate hq | commitAcquire hq =>
    exact waitsWithoutPulse_of_no_write quiet nofun (by simp [hq])
  | commitRun hq => exact waitsWithoutPulse_beginDelay quiet (by simp [hq])

/-- Settles O36: a Wait that goes on makes no event and stays in its STATE; the action that ends it is one of those of
Waiting. -/
theorem waitingNeverPulses : Obligations.WaitingNeverPulses := by
  intro s t b hr hwait h
  have hb : busy s = true := busy_iff.mpr (by rcases hwait with hq | hq | hq | hq <;> simp [hq])
  obtain ⟨d, f, e, c, k, g, w, ha, rfl⟩ := advance_of_step hr hb h
  rcases advance_cases ha with ⟨hc, rfl⟩ | ⟨hw, hact⟩
  · have hgoes : waitEnds s = false := Bool.eq_false_iff.mpr fun hw => absurd (waitEnds_iff.mp hw) (Nat.not_le.mpr hc)
    have hseq : s.seq ≠ .clocking := by rcases hwait with hq | hq | hq | hq <;> simp [hq]
    exact ⟨iff_of_false nofun (by simp [hgoes]), iff_of_false hseq (by simp [hgoes])⟩
  · have hw' : waitEnds s = true := hw
    simp only [hw', true_and]
    exact waitsWithoutPulse_of_action (u := hostTouched (beginEdge s) d f e c k g) hwait rfl hact b

/-! ## The failed poll -/

/-- With no host write the host's part of an edge does nothing (R51). -/
theorem hostPart_of_noWrite (hw : (portIn s).regWr = false) : hostPart (beginEdge s) = .next (beginEdge s) :=
  if_neg (by rw [portIn_congr (t := beginEdge s) (s := s) rfl rfl, hw]; exact Bool.false_ne_true)

/-- With no host write, an edge that ends a Wait is the next action alone (R61, R126). -/
theorem step_of_acts_noWrite (hinv : s.Inv) (h : s.acts) (hw : (portIn s).regWr = false) :
    step s = andThen (nextAction (beginEdge s)) fun u => .next (finishEdge (regRdata s) u) := by
  obtain ⟨hr, hb, hends⟩ := h
  obtain ⟨-, -, -, -, -, -, hfresh, -⟩ := inv_iff_placeOk.mp hinv
  have hself : s.noSelfOffer := .inl (Bool.eq_false_iff.mpr fun hf => busy_iff.mp hb (hfresh hf))
  rw [step_of_run hr, runEdge, selfOffer_of_noSelfOffer hself (beginEdge s) rfl, andThen_next, hostPart_of_noWrite hw,
    andThen_next, hb, sequencerPart, if_pos rfl, advance_of_waitEnds (s := beginEdge s) hends]

theorem toNat_pollsAfter (p : Word) : (pollsAfter p).toNat = min (p.toNat + 1) (2 ^ 32 - 1) := by
  unfold pollsAfter
  split
  · next h => rw [h]; rfl
  · next h => bv_omega

theorem pollsTimedOut_pollsAfter_iff (n p : Word) :
    pollsTimedOut n (pollsAfter p) = true ↔ n ≠ 0#32 ∧ n.toNat ≤ min (p.toNat + 1) (2 ^ 32 - 1) := by
  rw [pollsTimedOut, Bool.and_eq_true, decide_eq_true_iff, decide_eq_true_iff, toNat_pollsAfter]

theorem pollFailed_of_timedOut (ht : pollsTimedOut u.timeout (pollsAfter u.polls) = true) :
    pollFailed (pinRead u) = timeoutStep (pollCounted u) := if_pos ht

theorem pollFailed_of_goesOn (ht : pollsTimedOut u.timeout (pollsAfter u.polls) = false) :
    pollFailed (pinRead u) = .next (beginBackoff (pollCounted u)) := if_neg (by simp [ht])

theorem timeoutStep_completes (ho : u.op = .readFrame ∨ u.op = .acquire) :
    timeoutStep u = .next (complete (raiseErr .readyTimeout u)) := by
  rcases ho with ho | ho <;> rw [timeoutStep, ho] <;> rfl

theorem timeoutStep_run (ho : u.op = .run) : timeoutStep u = .next (beginDelay (raiseErr .readyTimeout u)) := by
  rw [timeoutStep, ho]
  rfl

theorem beginDelay_of_zero (h : u.interframe = 0#32) : beginDelay u = beginWait u := if_pos h

theorem beginDelay_of_ne_zero (h : u.interframe ≠ 0#32) :
    beginDelay u = waitFor u.interframe { u with seq := .delay } := if_neg h

/-- The failed poll of an edge, its count said as a value of its own, so that it can be generalised (R79). -/
theorem pollCounted_beginEdge (s : State) :
    pollCounted (beginEdge s) = { pinRead (beginEdge s) with polls := pollsAfter s.polls } := rfl

section FailedPoll

variable (hinv : s.Inv) (h : s.acts) (hq : s.seq = .poll) (hd : doutLevel s = true) (hw : (portIn s).regWr = false)
include hinv h hq hd hw

/-- A failed poll with no host write is `pollFailed` after the read. -/
theorem step_pollFailed :
    step s = andThen (pollFailed (pinRead (beginEdge s))) fun u => .next (finishEdge (regRdata s) u) := by
  rw [step_of_acts_noWrite hinv h hw, nextAction_poll_failed (s := beginEdge s) hq hd]

/-- The block backs off (R79). -/
theorem step_pollBackoff (ht : pollsTimedOut s.timeout (pollsAfter s.polls) = false) :
    ∃ t, step s = .next t ∧ t.pinEvents = [.read true] ∧ t.cnt = s.backoff ∧ t.errP = s.errP ∧ t.errCode = s.errCode
      ∧ held t = { held s with seq := .backoff, polls := pollsAfter s.polls } := by
  have hevents : [PinEvent.read (doutLevel s)] = [.read true] := by rw [hd]
  have hs := step_pollFailed hinv h hq hd hw
  rw [pollFailed_of_goesOn (u := beginEdge s) ht, andThen_next, pollCounted_beginEdge] at hs
  generalize pollsAfter s.polls = p at hs ⊢
  exact ⟨_, hs, hevents, rfl, rfl, rfl, by rw [held_finishEdge, held_beginBackoff, held_pinRead_withPolls]⟩

/-- The wait times out (R79). -/
theorem step_pollTimeout (ht : pollsTimedOut s.timeout (pollsAfter s.polls) = true) :
    step s = andThen (timeoutStep (pollCounted (beginEdge s))) fun u => .next (finishEdge (regRdata s) u) := by
  rw [step_pollFailed hinv h hq hd hw, pollFailed_of_timedOut (u := beginEdge s) ht]

variable (ht : pollsTimedOut s.timeout (pollsAfter s.polls) = true)
include ht

/-- READ_FRAME and ACQUIRE complete with READY_TIMEOUT (R88, R102). -/
theorem step_pollTimeout_completes (ho : s.op = .readFrame ∨ s.op = .acquire) :
    ∃ t, step s = .next t ∧ t.pinEvents = [.read true] ∧ t.errP = true ∧ t.errCode = .readyTimeout ∧ t.doneP = true
      ∧ held t = { held s with seq := .idle, op := .nop, polls := pollsAfter s.polls } := by
  have hevents : [PinEvent.read (doutLevel s)] = [.read true] := by rw [hd]
  have hs := step_pollTimeout hinv h hq hd hw ht
  rw [timeoutStep_completes (u := pollCounted (beginEdge s)) ho, andThen_next, pollCounted_beginEdge] at hs
  generalize pollsAfter s.polls = p at hs ⊢
  exact ⟨_, hs, hevents, rfl, rfl, rfl, by rw [held_finishEdge, held_complete, held_raiseErr, held_pinRead_withPolls]⟩

/-- RUN goes to DELAY, or to a new wait in its place, with READY_TIMEOUT (R104, R103). -/
theorem step_pollTimeout_run (ho : s.op = .run) :
    ∃ t, step s = .next t ∧ t.pinEvents = [.read true] ∧ t.errP = true ∧ t.errCode = .readyTimeout
      ∧ t.doneP = s.doneP
      ∧ if s.interframe = 0#32 then t.cnt = 1#32 ∧ held t = { held s with seq := .poll, polls := 0#32 }
        else t.cnt = s.interframe ∧ held t = { held s with seq := .delay, polls := pollsAfter s.polls } := by
  have hevents : [PinEvent.read (doutLevel s)] = [.read true] := by rw [hd]
  have hs := step_pollTimeout hinv h hq hd hw ht
  rw [timeoutStep_run (u := pollCounted (beginEdge s)) ho, andThen_next, pollCounted_beginEdge] at hs
  generalize pollsAfter s.polls = p at hs ⊢
  split
  · next hi =>
    rw [beginDelay_of_zero (u := raiseErr .readyTimeout { pinRead (beginEdge s) with polls := p }) hi] at hs
    exact ⟨_, hs, hevents, rfl, rfl, rfl, rfl, by
      rw [held_finishEdge, held_beginWait, held_raiseErr, held_pinRead_withPolls]⟩
  · next hi =>
    rw [beginDelay_of_ne_zero (u := raiseErr .readyTimeout { pinRead (beginEdge s) with polls := p }) hi] at hs
    exact ⟨_, hs, hevents, rfl, rfl, rfl, rfl, by
      rw [held_finishEdge, held_enterDelay, held_raiseErr, held_pinRead_withPolls]⟩

end FailedPoll

theorem readsFrame_iff {i : Instr} : readsFrame i = true ↔ (i = .readFrame ∨ i = .acquire) ∨ i = .run := by
  cases i <;> decide

/-- Settles O34: by the timeout, by the command, and for RUN by INTERFRAME. -/
theorem failedPollBacksOffOrTimesOut : Obligations.FailedPollBacksOffOrTimesOut := by
  intro s hinv h hq hd hw
  obtain ⟨-, -, hplace, -⟩ := inv_iff_placeOk.mp hinv
  obtain ⟨⟨hlow, -⟩, -, hop, -⟩ := (placeOk_poll_iff hq).mp hplace
  by_cases ht : s.timeout ≠ 0#32 ∧ s.timeout.toNat ≤ min (s.polls.toNat + 1) (2 ^ 32 - 1)
  · simp only [if_pos ht]
    rw [← pollsTimedOut_pollsAfter_iff] at ht
    rcases readsFrame_iff.mp hop with ho | ho
    · obtain ⟨t, hs, hevents, herr, hcode, hdone, hheld⟩ := step_pollTimeout_completes hinv h hq hd hw ht ho
      obtain ⟨hrecord, hsamples, hconfig, hsck⟩ := same_of_held_place hheld
      exact ⟨t, hs, hevents, hrecord, hsamples, hconfig, hsck.trans hlow, herr, hcode,
        fun _ => ⟨(congrArg State.seq hheld :), (congrArg State.op hheld :), hdone⟩,
        fun hrun => by simp [hrun] at ho⟩
    · obtain ⟨t, hs, hevents, herr, hcode, hdone, hnext⟩ := step_pollTimeout_run hinv h hq hd hw ht ho
      have hother : ¬ (s.op = .readFrame ∨ s.op = .acquire) := by simp [ho]
      by_cases hi : s.interframe = 0#32
      · rw [if_pos hi] at hnext
        obtain ⟨hcnt, hheld⟩ := hnext
        obtain ⟨hrecord, hsamples, hconfig, hsck⟩ := same_of_held_place hheld
        exact ⟨t, hs, hevents, hrecord, hsamples, hconfig, hsck.trans hlow, herr, hcode, fun ho => absurd ho hother,
          fun _ => ⟨(congrArg State.op hheld :).trans ho, hdone, by
            rw [if_pos hi]
            exact ⟨(congrArg State.seq hheld :), (congrArg State.polls hheld :), hcnt⟩⟩⟩
      · rw [if_neg hi] at hnext
        obtain ⟨hcnt, hheld⟩ := hnext
        obtain ⟨hrecord, hsamples, hconfig, hsck⟩ := same_of_held_place hheld
        exact ⟨t, hs, hevents, hrecord, hsamples, hconfig, hsck.trans hlow, herr, hcode, fun ho => absurd ho hother,
          fun _ => ⟨(congrArg State.op hheld :).trans ho, hdone, by
            rw [if_neg hi]
            exact ⟨(congrArg State.seq hheld :), hcnt⟩⟩⟩
  · simp only [if_neg ht]
    rw [← pollsTimedOut_pollsAfter_iff, Bool.not_eq_true] at ht
    obtain ⟨t, hs, hevents, hcnt, herr, hcode, hheld⟩ := step_pollBackoff hinv h hq hd hw ht
    obtain ⟨hrecord, hsamples, hconfig, hsck⟩ := same_of_held_place hheld
    have hpolls : t.polls = pollsAfter s.polls := (congrArg State.polls hheld :)
    exact ⟨t, hs, hevents, hrecord, hsamples, hconfig, hsck.trans hlow, (congrArg State.seq hheld :), hcnt,
      (congrArg State.op hheld :), herr, hcode, by rw [hpolls, toNat_pollsAfter]⟩

end Sys2Proof.Machine
end

section
/-! PROOFS. O35: a wait that times out. One failed poll and its back-off lead from POLL to POLL with one more poll
counted (`failedPoll_cycle`), and the last failed poll ends the command. -/

namespace Sys2Proof.Machine

variable {s t u : State} {e : List PinEvent} {m n : Nat}

/-! ## Runs of a block with the invariant -/

/-- A run of one edge and more, taken apart. -/
theorem runEvents_succ_cases (h : runEvents (n + 1) s = some (e, t)) :
    ∃ u f, step s = .next u ∧ runEvents n u = some (f, t) := by
  cases hs : step s with
  | next u =>
    rw [runEvents_succ hs, Option.map_eq_some_iff] at h
    obtain ⟨r, hr, hrt⟩ := h
    cases hrt
    exact ⟨u, r.1, rfl, hr⟩
  | fault | refused => simp [runEvents, hs] at h

/-- Every run keeps the invariant (R37). -/
theorem inv_of_runEvents (hinv : s.Inv) (h : runEvents n s = some (e, t)) : t.Inv := by
  induction n generalizing s e with
  | zero => cases h; exact hinv
  | succ n ih =>
    obtain ⟨u, f, hs, hrun⟩ := runEvents_succ_cases h
    exact ih (stepKeepsTheInvariant s u hinv hs) hrun

/-- A Wait runs up to its last cycle, and the edge after that makes the next action (R137). -/
theorem acts_of_wait (hb : busy s = true) (hc : 1 ≤ s.cnt.toNat) (hn : s.noReset s.cnt.toNat) :
    ∃ t, runEvents (s.cnt.toNat - 1) s = some ([], t) ∧ held t = held s ∧ t.acts := by
  obtain ⟨t, ht, hheld, hcnt⟩ := runEvents_held (k := s.cnt.toNat - 1) hb (by omega) (noReset_mono hn (by omega))
  have hlast : t.noReset 1 := noReset_of_runEvents ht (noReset_mono hn (by omega))
  exact ⟨t, ht, hheld, rst_of_noReset hlast, (busy_of_held hheld).trans hb, waitEnds_iff.mpr (by omega)⟩

/-- In POLL every edge without reset is a poll (R79). -/
theorem acts_of_poll (hinv : s.Inv) (hq : s.seq = .poll) (hr : (portIn s).rst = false) : s.acts := by
  obtain ⟨-, -, hplace, -⟩ := inv_iff_placeOk.mp hinv
  obtain ⟨-, -, -, hcnt, -⟩ := (placeOk_poll_iff hq).mp hplace
  exact ⟨hr, busy_iff.mpr (by simp [hq]), waitEnds_iff.mpr (by simp [hcnt])⟩

/-! ## The data line HIGH and the host quiet -/

/-- In the next `n` cycles there is no reset and no host write, and every level that PinRead can return is HIGH. -/
structure State.LineHigh (n : Nat) (s : State) : Prop where
  given : n ≤ s.inputs.length
  quiet : ∀ i ∈ s.inputs.take n, i.rst = false ∧ i.regWr = false ∧ i.dout = true
  sync : ∀ b ∈ s.sync, b = true

theorem lineHigh_mono (h : s.LineHigh n) (hm : m ≤ n) : s.LineHigh m :=
  ⟨hm.trans h.given, fun i hi => h.quiet i ((List.take_sublist_take_left hm).mem hi), h.sync⟩

theorem noReset_of_lineHigh (h : s.LineHigh n) : s.noReset n := fun i hi => (h.quiet i hi).1

/-- The ports in the coming cycle. -/
theorem portIn_of_lineHigh (h : s.LineHigh (n + 1)) :
    (portIn s).rst = false ∧ (portIn s).regWr = false ∧ (portIn s).dout = true := by
  obtain ⟨hgiven, hquiet, -⟩ := h
  unfold portIn
  cases hi : s.inputs with
  | nil => simp [hi] at hgiven
  | cons i l => exact hquiet i (by simp [hi])

theorem doutLevel_of_lineHigh (h : s.LineHigh (n + 1)) : doutLevel s = true := by
  obtain ⟨-, -, hdout⟩ := portIn_of_lineHigh h
  have hsync := h.sync
  rw [doutLevel, syncOut, hdout]
  cases hl : s.sync with
  | nil => rfl
  | cons b l => exact hsync b (by simp [hl])

/-- An edge shifts a HIGH level into SYNC and uses up one cycle (R40). -/
theorem lineHigh_of_step (h : s.LineHigh (n + 1)) (hs : step s = .next t) : t.LineHigh n := by
  obtain ⟨hr, -, hdout⟩ := portIn_of_lineHigh h
  obtain ⟨hsync, hin, -⟩ := step_frame hr hs
  obtain ⟨hgiven, hquiet, hhigh⟩ := h
  refine ⟨by rw [hin, List.length_tail]; omega, fun i hi => hquiet i ?_, fun b hb => ?_⟩
  · rw [hin] at hi
    exact List.mem_of_mem_tail (by rwa [List.tail_take_eq_take_tail])
  · rw [hsync, shiftSync, hdout] at hb
    rcases List.mem_append.mp (List.mem_of_mem_tail hb) with hb | hb
    · exact hhigh b hb
    · simpa using hb

theorem lineHigh_of_runEvents (h : s.LineHigh (m + n)) (hrun : runEvents m s = some (e, t)) : t.LineHigh n := by
  induction m generalizing s e with
  | zero => cases hrun; rwa [Nat.zero_add] at h
  | succ m ih =>
    obtain ⟨u, f, hs, hrest⟩ := runEvents_succ_cases hrun
    exact ih (lineHigh_of_step (by rwa [Nat.add_right_comm] at h) hs) hrest

/-! ## What a wait leaves alone -/

/-- The record, the samples and the configuration are the same in both states. -/
def sameData (s t : State) : Prop := sameRecord s t ∧ sameSamples s t ∧ sameConfig s t

theorem sameRecord_trans (h : sameRecord s t) (g : sameRecord t u) : sameRecord s u := by
  obtain ⟨hraw, hvalue, hrate, hcount, hstart⟩ := h
  obtain ⟨graw, gvalue, grate, gcount, gstart⟩ := g
  exact ⟨graw.trans hraw, gvalue.trans hvalue, grate.trans hrate, gcount.trans hcount, gstart.trans hstart⟩

theorem sameSamples_trans (h : sameSamples s t) (g : sameSamples t u) : sameSamples s u := by
  obtain ⟨hacc, hbitcnt, hlast⟩ := h
  obtain ⟨gacc, gbitcnt, glast⟩ := g
  exact ⟨gacc.trans hacc, gbitcnt.trans hbitcnt, glast.trans hlast⟩

theorem sameData_trans (h : sameData s t) (g : sameData t u) : sameData s u := by
  obtain ⟨hrecord, hsamples, hconfig⟩ := h
  obtain ⟨grecord, gsamples, gconfig⟩ := g
  exact ⟨sameRecord_trans hrecord grecord, sameSamples_trans hsamples gsamples, sameConfig_trans hconfig gconfig⟩

/-- The delay and the limit of a wait are part of the configuration (R23, R25). -/
theorem backoff_timeout_of_sameData (h : sameData s t) : t.backoff = s.backoff ∧ t.timeout = s.timeout := by
  obtain ⟨-, -, -, -, -, hbackoff, -, htimeout, -⟩ := h
  exact ⟨hbackoff, htimeout⟩

theorem sameData_of_held (h : held t = held s) : sameData s t :=
  ⟨sameRecord_of_held h ⟨rfl, rfl, rfl, rfl, rfl⟩, sameSamples_of_held h ⟨rfl, rfl, rfl⟩,
    sameConfig_of_held h (sameConfig_refl s)⟩

/-! ## The polls -/

/-- A failed poll that is not the last: the edge of the poll, BACKOFF cycles, and the block is in POLL again with one
more poll counted (R79, R81). -/
theorem failedPoll_cycle (hinv : s.Inv) (hq : s.seq = .poll) (hmore : s.polls.toNat + 1 < s.timeout.toNat)
    (hline : s.LineHigh (1 + s.backoff.toNat)) :
    ∃ t, runEvents (1 + s.backoff.toNat) s = some ([.read true], t) ∧ t.seq = .poll ∧ t.op = s.op
      ∧ t.polls.toNat = s.polls.toNat + 1 ∧ sameData s t := by
  have hfirst : s.LineHigh (0 + 1) := lineHigh_mono hline (by omega)
  obtain ⟨hr, hwr, -⟩ := portIn_of_lineHigh hfirst
  obtain ⟨-, ⟨-, hbackoff⟩, -⟩ := inv_iff_placeOk.mp hinv
  have hone : 1 ≤ s.backoff.toNat := by bv_omega
  have hpolls := s.timeout.isLt
  obtain ⟨u, hu, hevents, hrecord, hsamples, hconfig, -, hnext⟩ := failedPollBacksOffOrTimesOut s hinv
    (acts_of_poll hinv hq hr) hq (doutLevel_of_lineHigh hfirst) hwr
  rw [if_neg (by omega)] at hnext
  obtain ⟨hseq, hcnt, hop, -, -, hcount⟩ := hnext
  have hrunu := runEvents_one hu
  obtain ⟨v, hv, hheld, hacts⟩ := acts_of_wait (s := u) (busy_iff.mpr (by simp [hseq])) (by rw [hcnt]; exact hone)
    (by rw [hcnt]; exact noReset_of_lineHigh (lineHigh_of_runEvents hline hrunu))
  have hvinv : v.Inv := inv_of_runEvents (stepKeepsTheInvariant s u hinv hu) hv
  obtain ⟨t, ht, tseq, tpolls, -, top, -, tevents, -, -, trecord, tsamples, tconfig⟩ :=
    (delayAndBackoffEndInAPoll v hvinv hacts).2 ((congrArg State.seq hheld :).trans hseq)
  have hrun := runEvents_append hrunu (runEvents_append hv (runEvents_one ht))
  rw [hevents, tevents, hcnt, Nat.sub_add_cancel hone] at hrun
  have vpolls : v.polls = u.polls := (congrArg State.polls hheld :)
  refine ⟨t, hrun, tseq, (top.trans (congrArg State.op hheld :)).trans hop, ?_,
    sameData_trans ⟨hrecord, hsamples, hconfig⟩ (sameData_trans (sameData_of_held hheld) ⟨trecord, tsamples, tconfig⟩)⟩
  rw [tpolls, vpolls, hcount]
  omega

/-- With `k + 1` polls to go to the timeout, all of which fail, the command ends after `k` back-offs (R81, R138). -/
theorem timeout_after_polls (k : Nat) (hinv : s.Inv) (hq : s.seq = .poll) (ho : s.op = .readFrame ∨ s.op = .acquire)
    (hk : s.polls.toNat + (k + 1) = s.timeout.toNat) (hline : s.LineHigh (1 + k * (1 + s.backoff.toNat))) :
    ∃ t, runEvents (1 + k * (1 + s.backoff.toNat)) s = some (List.replicate (k + 1) (.read true), t)
      ∧ t.seq = .idle ∧ t.op = .nop ∧ t.doneP = true ∧ t.errP = true ∧ t.errCode = .readyTimeout ∧ sameData s t := by
  induction k generalizing s with
  | zero =>
    rw [Nat.zero_mul] at hline ⊢
    have hfirst : s.LineHigh (0 + 1) := hline
    obtain ⟨hr, hwr, -⟩ := portIn_of_lineHigh hfirst
    obtain ⟨t, ht, hevents, hrecord, hsamples, hconfig, -, hnext⟩ := failedPollBacksOffOrTimesOut s hinv
      (acts_of_poll hinv hq hr) hq (doutLevel_of_lineHigh hfirst) hwr
    have hlt := s.timeout.isLt
    have hne : s.timeout ≠ 0#32 := fun h0 => by simp [h0] at hk
    rw [if_pos ⟨hne, by omega⟩] at hnext
    obtain ⟨herr, hcode, hend, -⟩ := hnext
    obtain ⟨hseq, hop, hdone⟩ := hend ho
    have hrun := runEvents_one ht
    rw [hevents] at hrun
    exact ⟨t, hrun, hseq, hop, hdone, herr, hcode, hrecord, hsamples, hconfig⟩
  | succ k ih =>
    have hlen : 1 + (k + 1) * (1 + s.backoff.toNat) = 1 + s.backoff.toNat + (1 + k * (1 + s.backoff.toNat)) := by ring
    rw [hlen] at hline ⊢
    obtain ⟨u, hu, hseq, hop, hpolls, hdata⟩ := failedPoll_cycle hinv hq (by omega) (lineHigh_mono hline (by omega))
    obtain ⟨hbackoff, htimeout⟩ := backoff_timeout_of_sameData hdata
    obtain ⟨t, ht, tseq, top, tdone, terr, tcode, tdata⟩ := ih (s := u) (inv_of_runEvents hinv hu) hseq (by rwa [hop])
      (by rw [hpolls, htimeout]; omega) (by rw [hbackoff]; exact lineHigh_of_runEvents hline hu)
    rw [hbackoff] at ht
    exact ⟨t, runEvents_append hu ht, tseq, top, tdone, terr, tcode, sameData_trans hdata tdata⟩

/-- Settles O35: from POLLS 0 there are TIMEOUT polls to go. -/
theorem timeoutAfterNFailedPolls : Obligations.TimeoutAfterNFailedPolls := by
  intro s n hinv hq hp ho htimeout hn hgiven hquiet hsync
  obtain ⟨k, hk⟩ : ∃ k, s.timeout.toNat = k + 1 := Nat.exists_eq_succ_of_ne_zero fun h0 =>
    htimeout (BitVec.eq_of_toNat_eq h0)
  have hlen : n = 1 + k * (1 + s.backoff.toNat) := by rw [hn, hk, Nat.add_sub_cancel]; ring
  subst hlen
  rw [hk]
  exact timeout_after_polls k hinv hq ho (by rw [hp, hk]; exact Nat.zero_add _) ⟨hgiven, hquiet, hsync⟩

end Sys2Proof.Machine
end

section
/-! PROOFS. O39: a frame. `frameBits` are the levels PinRead returns at the sample edges; each pulse begins from the
rise of SCK (`RisesAfter`), samples one more bit (`PulseMade`), and leads to the rise of the next, up to the 25th. -/

namespace Sys2Proof.Machine

variable {s t u v w x : State} {bits : List Bit} {k n : Nat}

/-! ## The bits in ACC -/

theorem getLsbD_accAfter (acc : U24) (b : Bit) (i : Nat) (hi : i < 24) :
    (accAfter acc b).getLsbD i = if i = 0 then b else acc.getLsbD (i - 1) := by
  rw [accAfter, BitVec.getLsbD_or, BitVec.getLsbD_shiftLeft, BitVec.getLsbD_setWidth, BitVec.getLsbD_ofBool]
  rcases Nat.eq_zero_or_pos i with rfl | hpos
  · simp
  · simp [hi, Nat.pos_iff_ne_zero.mp hpos]

theorem msbFirst_append (l : List Bit) (b : Bit) : msbFirst (l ++ [b]) = accAfter (msbFirst l) b := by
  simp [msbFirst]

/-- The last bit taken stands lowest (R83). -/
theorem getLsbD_msbFirst (l : List Bit) (i : Nat) (hi : i < 24) : (msbFirst l).getLsbD i = l.reverse.getD i false := by
  induction l using List.reverseRecOn generalizing i with
  | nil => simp [msbFirst]
  | append_singleton l b ih =>
    rw [msbFirst_append, getLsbD_accAfter _ _ _ hi, List.reverse_concat]
    cases i with
    | zero => rfl
    | succ i => exact ih i (by omega)

/-- The first of 24 bits stands highest (R83). -/
theorem getLsbD_msbFirst_of_length (l : List Bit) (hl : l.length = 24) (hk : k < 24) :
    (msbFirst l).getLsbD (23 - k) = l.getD k false := by
  rw [getLsbD_msbFirst l (23 - k) (by omega), List.getD_eq_getElem?_getD, List.getD_eq_getElem?_getD,
    List.getElem?_reverse (by omega)]
  congr 2
  omega

/-! ## The state in the halves of a frame's pulses -/

/-- What the Wait of a pulse's half holds when `bits` have been sampled: the first 24 of them in ACC, all of them
counted (R82). `x` gives the fields a frame leaves alone. -/
def frameHalf (p : Phase) (x : State) (bits : List Bit) : State :=
  { x with
    phase := p, sckQ := decide (p = .high), acc := msbFirst (bits.take 24), bitcnt := BitVec.ofNat 5 bits.length }

/-- Where the sequencer is in the half of a frame's pulse (R37). -/
theorem place_of_frameHalf {p : Phase} (hx : held s = frameHalf p x bits) (hq : x.seq = .clocking)
    (ho : readsFrame x.op = true) :
    s.seq = .clocking ∧ s.phase = p ∧ readsFrame s.op = true ∧ s.bitcnt = BitVec.ofNat 5 bits.length := by
  have hop : s.op = x.op := (congrArg State.op hx :)
  exact ⟨(congrArg State.seq hx :).trans hq, (congrArg State.phase hx :), by rw [hop, ho], (congrArg State.bitcnt hx :)⟩

/-- BITCNT says whether a bit still goes into ACC (R82, R84). -/
theorem acc_of_sample (d : Bit) (hlen : bits.length < 25) :
    (if (BitVec.ofNat 5 bits.length).toNat < Config.dataBits then accAfter (msbFirst (bits.take 24)) d
      else msbFirst (bits.take 24)) = msbFirst ((bits ++ [d]).take 24) := by
  have hcount : (BitVec.ofNat 5 bits.length).toNat = bits.length := by rw [BitVec.toNat_ofNat]; omega
  rw [hcount, Config.dataBits]
  split
  · rw [List.take_of_length_le (l := bits ++ [d]) (by simp; omega), List.take_of_length_le (by omega),
      msbFirst_append]
  · rw [List.take_append_of_le_length (by omega)]

theorem bitcnt_of_sample (d : Bit) : BitVec.ofNat 5 bits.length + 1#5 = BitVec.ofNat 5 (bits ++ [d]).length := by
  rw [List.length_append, List.length_singleton, BitVec.ofNat_add]

/-- What the sample of the bit `d` does to the half it ends (R82). -/
theorem frameHalf_append (x : State) (d : Bit) (hlen : bits.length < 25) :
    frameHalf .low x (bits ++ [d])
      = { frameHalf .high x bits with
          phase := .low, sckQ := false, bitcnt := (frameHalf .high x bits).bitcnt + 1#5
          acc := if (frameHalf .high x bits).bitcnt.toNat < Config.dataBits
            then accAfter (frameHalf .high x bits).acc d else (frameHalf .high x bits).acc } := by
  show { x with
    phase := .low, sckQ := false, acc := msbFirst ((bits ++ [d]).take 24)
    bitcnt := BitVec.ofNat 5 (bits ++ [d]).length } = _
  rw [← acc_of_sample d hlen, ← bitcnt_of_sample d]
  rfl

section Edges

variable (h : s.acts) (hq : x.seq = .clocking) (ho : readsFrame x.op = true)
include h hq ho

/-- The sample edge of a frame's pulse (R74, R82, R84). -/
theorem step_sampleFrame (hx : held s = frameHalf .high x bits) (hlen : bits.length < 25) :
    s.leadsTo [.read (doutLevel s), .write false] x.settle (frameHalf .low x (bits ++ [doutLevel s])) := by
  obtain ⟨hseq, hphase, hop, -⟩ := place_of_frameHalf hx hq ho
  obtain ⟨d, f, e, c, k, g, hs, -⟩ := step_of_action (act := sampleFrame) h fun d f e c k g =>
    nextAction_frame_high (s := hostTouched (beginEdge s) d f e c k g) hseq hphase hop
  refine ⟨_, hs, rfl, (congrArg State.settle hx :), ?_⟩
  have hheld : held (finishEdge (regRdata s) (sampleFrame (hostTouched (beginEdge s) d f e c k g)))
      = { held s with
          phase := .low, sckQ := false, bitcnt := (held s).bitcnt + 1#5
          acc := if (held s).bitcnt.toNat < Config.dataBits then accAfter (held s).acc (doutLevel s)
            else (held s).acc } := rfl
  rw [hheld, hx, frameHalf_append x (doutLevel s) hlen]

/-- The edge that ends a pulse before the 25th begins the next (R82, R85). -/
theorem step_nextPulse (hx : held s = frameHalf .low x bits) (hlen : bits.length < 25) :
    s.leadsTo [.write true] x.settle (frameHalf .high x bits) := by
  obtain ⟨hseq, hphase, hop, hcount⟩ := place_of_frameHalf hx hq ho
  have hmore : s.bitcnt.toNat < Config.pulsesPerFrame := by
    rw [hcount, BitVec.toNat_ofNat]; exact (Nat.mod_le _ _).trans_lt hlen
  obtain ⟨d, f, e, c, k, g, hs, -⟩ := step_of_action (act := pulseRise) h fun d f e c k g =>
    (nextAction_frame_low (s := hostTouched (beginEdge s) d f e c k g) hseq hphase hop).trans
      (congrArg Host.Outcome.next (if_pos hmore))
  refine ⟨_, hs, rfl, (congrArg State.settle hx :), ?_⟩
  have hheld : held (finishEdge (regRdata s) (pulseRise (hostTouched (beginEdge s) d f e c k g)))
      = { held s with phase := .high, sckQ := true } := rfl
  rw [hheld, hx]
  rfl

/-- The edge that ends the 25th pulse decodes ACC and begins PROCESS (R82, R87). -/
theorem step_endFrame (hx : held s = frameHalf .low x bits) (hlen : bits.length = 25) :
    s.leadsTo [] (calcCycles x)
      { frameHalf .low x bits with seq := .process, dTmp := decodeFrame (msbFirst (bits.take 24)) } := by
  obtain ⟨hseq, hphase, hop, hcount⟩ := place_of_frameHalf hx hq ho
  have hlast : ¬ s.bitcnt.toNat < Config.pulsesPerFrame := by rw [hcount, hlen]; decide
  have hbuild : s.build = x.build := (congrArg State.build hx :)
  obtain ⟨d, f, e, c, k, g, hs, -⟩ := step_of_action (act := endFrame) h fun d f e c k g =>
    (nextAction_frame_low (s := hostTouched (beginEdge s) d f e c k g) hseq hphase hop).trans
      (congrArg Host.Outcome.next (if_neg hlast))
  have hcalc : calcCycles s = calcCycles x := by rw [calcCycles, hbuild, calcCycles]
  refine ⟨_, hs, rfl, hcalc, ?_⟩
  have hheld : held (finishEdge (regRdata s) (endFrame (hostTouched (beginEdge s) d f e c k g)))
      = { held s with seq := .process, dTmp := decodeFrame (held s).acc } := rfl
  rw [hheld, hx]
  rfl

end Edges

/-! ## The pulses of a frame -/

/-- The level PinRead returns in the state after `n` edges (R56); LOW where the block stops before. -/
def levelAfter (n : Nat) (s : State) : Bit := ((runEvents n s).map fun r => doutLevel r.2).getD false

theorem levelAfter_of_runEvents {e : List PinEvent} (h : runEvents n s = some (e, t)) :
    levelAfter n s = doutLevel t := by
  rw [levelAfter, h]
  rfl

/-- The bits of a frame's first `n` pulses, the poll coming at the first edge: bit k is read (2k + 1)·SETTLE edges after
the start (R74, R82). -/
def frameBits (n : Nat) (s : State) : List Bit :=
  (List.range n).map fun k => levelAfter ((2 * k + 1) * s.settle.toNat) s

@[simp] theorem length_frameBits (n : Nat) (s : State) : (frameBits n s).length = n := by simp [frameBits]

theorem frameBits_succ (n : Nat) (s : State) :
    frameBits (n + 1) s = frameBits n s ++ [levelAfter ((2 * n + 1) * s.settle.toNat) s] := by
  simp [frameBits, List.range_succ]

theorem take_frameBits (s : State) (h : k ≤ n) : (frameBits n s).take k = frameBits k s := by
  rw [frameBits, ← List.map_take, List.take_range, Nat.min_eq_left h, frameBits]

theorem getD_frameBits (s : State) (h : k < n) :
    (frameBits n s).getD k false = levelAfter ((2 * k + 1) * s.settle.toNat) s := by
  simp [frameBits, List.getD_eq_getElem?_getD, h]

theorem frameEvents_append (bits : List Bit) (b : Bit) :
    frameEvents (bits ++ [b]) = frameEvents bits ++ [.write true] ++ [.read b, .write false] := by
  simp [frameEvents, pulseEvents]

/-- After `k` pulses the coming edge raises SCK for the next (R82). -/
def RisesAfter (s x : State) (k : Nat) : Prop :=
  ∃ e f w, runEvents (2 * k * s.settle.toNat) s = some (e, w) ∧ w.leadsTo f x.settle (frameHalf .high x (frameBits k s))
    ∧ e ++ f = frameEvents (frameBits k s) ++ [.write true]

/-- Pulse `k + 1` of a frame: the state in which its bit is read, the one after the edge of the sample and the fall, and
the one at the end of the pulse (R74, R82). -/
structure PulseMade (s x : State) (k : Nat) : Prop where
  sample : ∃ u, runEvents ((2 * k + 1) * s.settle.toNat) s = some (frameEvents (frameBits k s) ++ [.write true], u)
  fall : ∃ v, runEvents ((2 * k + 1) * s.settle.toNat + 1) s = some (frameEvents (frameBits (k + 1) s), v)
    ∧ held v = frameHalf .low x (frameBits (k + 1) s)
  done : ∃ w, runEvents (2 * (k + 1) * s.settle.toNat) s = some (frameEvents (frameBits (k + 1) s), w)
    ∧ held w = frameHalf .low x (frameBits (k + 1) s) ∧ w.acts

section Pulses

variable (hq : x.seq = .clocking) (ho : readsFrame x.op = true) (hset : x.settle = s.settle)
  (hc : 1 ≤ s.settle.toNat) (hn : s.noReset (1 + 50 * s.settle.toNat))
include hq ho hset hc hn

/-- From its rise a pulse goes through both halves, whatever the data line gives (R74, R137). -/
theorem pulseMade_of_risesAfter (h : RisesAfter s x k) (hk : k < 25) : PulseMade s x k := by
  obtain ⟨e, f, w, hw, rise, hevents⟩ := h
  have hcycles : 2 * (k + 1) * s.settle.toNat ≤ 50 * s.settle.toNat := Nat.mul_le_mul_right _ (by omega)
  have hmid : (2 * k + 1) * s.settle.toNat = 2 * k * s.settle.toNat + s.settle.toNat := by ring
  have hend : 2 * (k + 1) * s.settle.toNat = 2 * k * s.settle.toNat + 2 * s.settle.toNat := by ring
  have hlen : (frameBits k s).length < 25 := by simpa using hk
  rw [hset] at rise
  obtain ⟨u, w', hu, -, hlow, hw', hheld, hacts⟩ := runEvents_of_halves rise (by simp [frameHalf, hq])
    (fun u ha hu => hset ▸ step_sampleFrame ha hq ho hu hlen) (fun u => by simp [frameHalf, hq]) hc
    (noReset_of_runEvents hw (noReset_mono hn (by omega)))
  obtain ⟨v, hv, hheldv⟩ := hlow (s.settle.toNat + 1) (by omega) (by omega)
  have sample : runEvents ((2 * k + 1) * s.settle.toNat) s
      = some (frameEvents (frameBits k s) ++ [.write true], u) := by
    rw [hmid, runEvents_append hw hu, hevents]
  have hbits : frameBits k s ++ [doutLevel u] = frameBits (k + 1) s := by
    rw [frameBits_succ, levelAfter_of_runEvents sample]
  have hall : e ++ (f ++ [.read (doutLevel u), .write false]) = frameEvents (frameBits (k + 1) s) := by
    rw [← List.append_assoc, hevents, ← hbits, frameEvents_append]
  rw [hbits] at hheldv hheld
  refine ⟨⟨u, sample⟩, ⟨v, ?_, hheldv⟩, ⟨w', ?_, hheld, hacts⟩⟩
  · rw [hmid, Nat.add_assoc, runEvents_append hw hv, hall]
  · rw [hend, runEvents_append hw hw', hall]

omit hc hn hset in
/-- A pulse before the 25th leads to the rise of the next (R82, R85). -/
theorem risesAfter_of_pulseMade (h : PulseMade s x k) (hk : k + 1 < 25) : RisesAfter s x (k + 1) := by
  obtain ⟨w, hw, hheld, hacts⟩ := h.done
  exact ⟨_, _, w, hw, step_nextPulse hacts hq ho hheld (by simpa using hk), rfl⟩

/-- All 25 pulses of a frame are made (R85). -/
theorem pulseMade_of_first (h : RisesAfter s x 0) (hk : k < 25) : PulseMade s x k := by
  induction k with
  | zero => exact pulseMade_of_risesAfter hq ho hset hc hn h hk
  | succ k ih =>
    exact pulseMade_of_risesAfter hq ho hset hc hn (risesAfter_of_pulseMade hq ho (ih (by omega)) hk) hk

end Pulses

/-- The rise of the first pulse is at the edge of the ready poll (R79, R82). -/
theorem risesAfter_zero (h : s.acts) (hq : s.seq = .poll) (hd : doutLevel s = false) :
    RisesAfter s { held s with seq := .clocking } 0 :=
  ⟨[], _, s, by rw [Nat.mul_zero, Nat.zero_mul]; rfl, step_pollReady h hq hd, rfl⟩

/-- CALC_LATENCY of a legal build as CNT counts it (R7, R38). -/
theorem toNat_calcCycles (h : s.build.legal = true) :
    (calcCycles s).toNat = s.build.calcLatency ∧ 1 ≤ s.build.calcLatency := by
  obtain ⟨hpos, hle⟩ : 1 ≤ s.build.calcLatency ∧ s.build.calcLatency ≤ 65536 := by
    simp only [Build.legal, Bool.and_eq_true, decide_eq_true_eq] at h
    obtain ⟨⟨⟨-, hcalc⟩, -⟩, -⟩ := h
    exact hcalc
  exact ⟨by rw [calcCycles, BitVec.toNat_ofNat]; omega, hpos⟩

/-- Settles O39: the 25 pulses one after another, then the edge that ends the frame. -/
theorem frameMakesTwentyFivePulses : Obligations.FrameMakesTwentyFivePulses := by
  intro s hinv h hq hd hn
  obtain ⟨⟨hlegal, -⟩, -, hplace, -⟩ := inv_iff_placeOk.mp hinv
  obtain ⟨-, -, ho, -⟩ := (placeOk_poll_iff hq).mp hplace
  have made : ∀ k, k < 25 → PulseMade s { held s with seq := .clocking } k := fun k hk =>
    pulseMade_of_first rfl ho rfl (one_le_settle hinv) hn (risesAfter_zero h hq hd) hk
  have hdata : (frameBits 25 s).take 24 = frameBits 24 s := take_frameBits s (by omega)
  obtain ⟨w, hw, hheldw, hacts⟩ := (made 24 (by omega)).done
  obtain ⟨t, ht, hevents, hcnt, hheld⟩ := step_endFrame (x := { held s with seq := .clocking }) hacts rfl ho
    hheldw (length_frameBits 25 s)
  have hrun := runEvents_append hw (runEvents_one ht)
  rw [hevents, List.append_nil, Nat.add_comm] at hrun
  have hacc : t.acc = msbFirst ((frameBits 25 s).take 24) := (congrArg State.acc hheld :)
  have hcount : t.bitcnt = BitVec.ofNat 5 (frameBits 25 s).length := (congrArg State.bitcnt hheld :)
  have hdecoded : t.dTmp = decodeFrame (msbFirst ((frameBits 25 s).take 24)) := (congrArg State.dTmp hheld :)
  refine ⟨frameBits 25 s, t, length_frameBits 25 s, fun k hk => ?_, fun k hk => ?_, hrun, hacc, fun k hk => ?_,
    by rw [hcount, length_frameBits], by rw [hdecoded, hacc]; rfl, (congrArg State.seq hheld :),
    by rw [hcnt]; exact (toNat_calcCycles hlegal).1, (congrArg State.op hheld :), (congrArg State.sckQ hheld :),
    (congrArg State.lastBit hheld :), sameRecord_of_held hheld ⟨rfl, rfl, rfl, rfl, rfl⟩,
    sameConfig_of_held hheld (sameConfig_refl s)⟩
  · obtain ⟨u, hu⟩ := (made k hk).sample
    exact ⟨u, by rw [take_frameBits s hk.le, hu], by rw [getD_frameBits s hk, levelAfter_of_runEvents hu]⟩
  · obtain ⟨v, hv, hheldv⟩ := (made k hk).fall
    have hbits : (frameBits 25 s).take (k + 1) = frameBits (k + 1) s := take_frameBits s hk
    have hcount : v.bitcnt = BitVec.ofNat 5 (frameBits (k + 1) s).length := (congrArg State.bitcnt hheldv :)
    refine ⟨v, by rw [hbits, hv], ?_, by rw [hbits]; exact (congrArg State.acc hheldv :),
      (congrArg State.sckQ hheldv :)⟩
    rw [hcount, length_frameBits, BitVec.toNat_ofNat]
    omega
  · rw [hacc, hdata, getLsbD_msbFirst_of_length _ (length_frameBits 24 s) hk, getD_frameBits s hk,
      getD_frameBits s (by omega)]

end Sys2Proof.Machine
end

section
/-! PROOFS. O47, O40: a command from its offer to its commit. The commit writes its results over what the Wait of
PROCESS held. -/

namespace Sys2Proof.Machine

variable {s t u v x : State} {e : List PinEvent} {i : Instr} {n : Nat}

/-- A run with its port events is a run. -/
theorem run_of_runEvents (h : runEvents n s = some (e, t)) : Host.Core.run core n s = .next t := by
  induction n generalizing s e with
  | zero => cases h; rfl
  | succ n ih =>
    obtain ⟨u, f, hs, hrest⟩ := runEvents_succ_cases h
    rw [run_core_succ, hs]
    exact ih hrest

/-! ## Commits -/

theorem processEnd_decode (ho : u.op = .decode) : processEnd u = .next (commitDecode u) := by rw [processEnd, ho]

theorem processEnd_recordRate (ho : u.op = .recordRate) : processEnd u = .next (commitRecordRate u) := by
  rw [processEnd, ho]

theorem processEnd_calibrate (ho : u.op = .calibrate) (hv : scaleValid u = true) :
    processEnd u = .next (complete (storeValue u.raw u)) := by
  rw [processEnd, ho]
  exact if_pos hv

theorem processEnd_acquire (ho : u.op = .acquire) (hv : scaleValid u = true) :
    processEnd u = .next (complete (frameCommit u.dTmp u)) := by
  rw [processEnd, ho]
  exact if_pos hv

/-- The edge that ends PROCESS makes the commit `act` (R60). -/
theorem step_of_commit {act : State → State} (h : s.acts) (hq : s.seq = .process)
    (hact : ∀ u, u.op = s.op → u.scale = s.scale → processEnd u = .next (act u)) :
    ∃ d f e c k g, step s = .next (finishEdge (regRdata s) (act (hostTouched (beginEdge s) d f e c k g))) := by
  obtain ⟨d, f, e, c, k, g, hs, -⟩ := step_of_action (act := act) h fun d f e c k g =>
    (nextAction_process (s := hostTouched (beginEdge s) d f e c k g) hq).trans (hact _ rfl rfl)
  exact ⟨d, f, e, c, k, g, hs⟩

theorem held_frameCommit (d : U24) (u : State) :
    held (frameCommit d u) = { held u with
      raw := d, value := calibrate d u.offset u.scale, frameCount := u.frameCount + 1#64
      rate := frameRate u.build.tickHz (u.frameCount + 1#64) (nowAt u - u.startTime) } := rfl

/-- What the commit of DECODE, CALIBRATE or RECORD_RATE makes of the state `x` that the Wait of PROCESS held, `now`
being the timebase at that edge (R89, R97, R98). -/
def processCommitted (i : Instr) (now : U64) (x : State) : State :=
  { x with
    seq := .idle, op := .nop
    raw := if i = .decode then decodeFrame x.arg else x.raw
    value := if i = .calibrate then calibrate x.raw x.offset x.scale else x.value
    frameCount := if i = .recordRate then x.frameCount + 1#64 else x.frameCount
    rate := if i = .recordRate then frameRate x.build.tickHz (x.frameCount + 1#64) (now - x.startTime) else x.rate }

/-- The same for the commit of a frame by READ_FRAME or ACQUIRE (R88, R102, R100). -/
def frameCommitted (i : Instr) (now : U64) (x : State) : State :=
  { x with
    seq := .idle, op := .nop, raw := x.dTmp
    value := if i = .acquire then calibrate x.dTmp x.offset x.scale else x.value
    frameCount := if i = .acquire then x.frameCount + 1#64 else x.frameCount
    rate := if i = .acquire then frameRate x.build.tickHz (x.frameCount + 1#64) (now - x.startTime) else x.rate }

section Commits

variable (h : s.acts) (hx : held s = x) (hq : x.seq = .process) (ho : x.op = i)
include h hx hq ho

theorem step_commitProcess (hi : i = .decode ∨ i = .calibrate ∧ f64Valid x.scale = true ∨ i = .recordRate) :
    ∃ t, step s = .next t ∧ t.doneP = true ∧ held t = processCommitted i (portIn s).now x := by
  subst hx ho
  rcases hi with ho | ⟨ho, hv⟩ | ho
  · obtain ⟨d, f, e, c, k, g, hs⟩ := step_of_commit h hq fun u uo _ => processEnd_decode (uo.trans ho)
    exact ⟨_, hs, rfl, by rw [ho]; rfl⟩
  · obtain ⟨d, f, e, c, k, g, hs⟩ := step_of_commit h hq fun u uo us =>
      processEnd_calibrate (uo.trans ho) ((congrArg f64Valid us).trans hv)
    exact ⟨_, hs, rfl, by rw [ho]; rfl⟩
  · obtain ⟨d, f, e, c, k, g, hs⟩ := step_of_commit h hq fun u uo _ => processEnd_recordRate (uo.trans ho)
    exact ⟨_, hs, rfl, by rw [ho]; rfl⟩

theorem step_commitFrame (hi : i = .readFrame ∨ i = .acquire ∧ f64Valid x.scale = true) :
    ∃ t, step s = .next t ∧ t.pinEvents = [] ∧ t.doneP = true ∧ t.fvQ = decide (i = .acquire)
      ∧ (i = .acquire → t.frameP = true) ∧ held t = frameCommitted i (portIn s).now x := by
  subst hx ho
  rcases hi with ho | ⟨ho, hv⟩
  · obtain ⟨t, hs, hevents, hdone, hfv, hheld⟩ := step_commitReadFrame h hq ho
    exact ⟨t, hs, hevents, hdone, by rw [ho]; exact hfv, by rw [ho]; nofun, by rw [ho]; exact hheld⟩
  · obtain ⟨d, f, e, c, k, g, hs⟩ := step_of_commit h hq fun u uo us =>
      processEnd_acquire (uo.trans ho) ((congrArg f64Valid us).trans hv)
    exact ⟨_, hs, rfl, rfl, by rw [ho]; rfl, fun _ => rfl, by
      rw [held_finishEdge, held_complete, held_frameCommit, held_hostTouched, ho]; rfl⟩

end Commits

/-! ## From the offer to the commit -/

theorem scale_of_sameConfig (h : sameConfig s t) : t.scale = s.scale := by
  obtain ⟨-, hscale, -⟩ := h
  exact hscale

/-- The edge at which DECODE, CALIBRATE or RECORD_RATE is accepted (R89, R97, R98). -/
theorem step_startProcess (h : s.offersCommand i)
    (hi : i = .decode ∨ i = .calibrate ∧ f64Valid s.scale = true ∨ i = .recordRate) :
    s.leadsTo [] (calcCycles s) { held s with op := i, seq := .process } := by
  obtain ⟨hdecode, hrecord, hcalibrate, -⟩ := processCommandsEnterProcess (beginEdge s) h.2.1
  rcases hi with rfl | ⟨rfl, hv⟩ | rfl
  · exact ⟨_, step_of_offersCommand h hdecode, rfl, rfl, rfl⟩
  · exact ⟨_, step_of_offersCommand h (hcalibrate hv), rfl, rfl, rfl⟩
  · exact ⟨_, step_of_offersCommand h hrecord, rfl, rfl, rfl⟩

/-- Settles O47: the offer begins the Wait of PROCESS, which holds the operands up to the commit. -/
theorem processCommandsComplete : Obligations.ProcessCommandsComplete := by
  intro s i hinv hoffer hn hi
  obtain ⟨⟨hlegal, -⟩, -⟩ := inv_iff_placeOk.mp hinv
  obtain ⟨hcalc, hone⟩ := toNat_calcCycles hlegal
  obtain ⟨u, hu, hheldu, hacts⟩ := acts_of_leadsTo (step_startProcess hoffer hi) nofun (by omega)
    (by rwa [hcalc, Nat.add_comm])
  obtain ⟨t, ht, hdone, hheld⟩ := step_commitProcess hacts hheldu rfl rfl hi
  obtain ⟨-, hbusy, -⟩ := hacts
  have hrun := runEvents_append hu (runEvents_one ht)
  rw [hcalc] at hu
  rw [hcalc, Nat.add_comm] at hrun
  exact ⟨u, t, run_of_runEvents hu, run_of_runEvents hrun, hbusy, (congrArg State.seq hheld :),
    (congrArg State.op hheld :), hdone, (congrArg State.raw hheld :), (congrArg State.value hheld :),
    (congrArg State.frameCount hheld :), (congrArg State.rate hheld :), (congrArg State.startTime hheld :),
    sameSamples_of_held hheld ⟨rfl, rfl, rfl⟩, sameConfig_of_held hheld (sameConfig_refl s)⟩

/-- The edge at which READ_FRAME or ACQUIRE is accepted (R88, R102, R79). -/
theorem step_startFrame (h : s.offersCommand i) (hi : i = .readFrame ∨ i = .acquire ∧ f64Valid s.scale = true) :
    s.leadsTo [] 1#32 { held s with op := i, seq := .poll, polls := 0#32 } := by
  obtain ⟨hread, hacquire, -⟩ := frameCommandsStartWaiting (beginEdge s) h.2.1
  rcases hi with rfl | ⟨rfl, hv⟩
  · exact ⟨_, step_of_offersCommand h hread, rfl, rfl, rfl⟩
  · exact ⟨_, step_of_offersCommand h (hacquire hv), rfl, rfl, rfl⟩

/-- From the first cycle of PROCESS a frame is committed after all its cycles, with no port event (R88, R102, R138). -/
theorem frame_committed (hq : s.seq = .process) (ho : s.op = i) (hc : 1 ≤ s.cnt.toNat) (hn : s.noReset s.cnt.toNat)
    (hi : i = .readFrame ∨ i = .acquire ∧ f64Valid s.scale = true) :
    ∃ t now, runEvents s.cnt.toNat s = some ([], t) ∧ t.doneP = true ∧ t.fvQ = decide (i = .acquire)
      ∧ (i = .acquire → t.frameP = true) ∧ held t = frameCommitted i now (held s) := by
  obtain ⟨v, hv, hheldv, hacts⟩ := acts_of_wait (busy_iff.mpr (by simp [hq])) hc hn
  obtain ⟨t, ht, hevents, hdone, hfv, hframe, hheld⟩ := step_commitFrame hacts hheldv hq ho hi
  have hrun := runEvents_append hv (runEvents_one ht)
  rw [hevents, Nat.sub_add_cancel hc] at hrun
  exact ⟨t, _, hrun, hdone, hfv, hframe, hheld⟩

/-- Settles O40: the offer, a frame from its ready first poll (O39), and the commit after PROCESS. -/
theorem frameCommandsComplete : Obligations.FrameCommandsComplete := by
  intro s i hinv hoffer hi hn hready
  obtain ⟨⟨hlegal, -⟩, -⟩ := inv_iff_placeOk.mp hinv
  obtain ⟨-, hone⟩ := toNat_calcCycles hlegal
  -- the offer
  obtain ⟨u, hu, uevents, -, hheldu⟩ := step_startFrame hoffer hi
  obtain ⟨urecord, ⟨-, -, ulast⟩, uconfig, -⟩ := same_of_held_place hheldu
  have useq : u.seq = .poll := (congrArg State.seq hheldu :)
  have uop : u.op = i := (congrArg State.op hheldu :)
  have ubuild : u.build = s.build := (congrArg State.build hheldu :)
  have usettle : u.settle = s.settle := (congrArg State.settle hheldu :)
  have uinv : u.Inv := stepKeepsTheInvariant s u hinv hu
  have hrunu := runEvents_one hu
  rw [uevents] at hrunu
  have hnu : u.noReset (1 + 50 * u.settle.toNat + s.build.calcLatency) := by
    rw [usettle]
    exact noReset_of_runEvents hrunu (noReset_mono hn (by omega))
  have uacts : u.acts := acts_of_poll uinv useq (rst_of_noReset (n := 0) (noReset_mono hnu (by omega)))
  -- the frame
  obtain ⟨bits, w, hlen, hsample, -, hw, wacc, -, wbitcnt, wtmp, wseq, wcnt, wop, wsck, wlast, wrecord, wconfig⟩ :=
    frameMakesTwentyFivePulses u uinv uacts useq (hready u hu) (noReset_mono hnu (by omega))
  rw [ubuild] at wcnt
  obtain ⟨-, wvalue, wrate, wcount, wstart⟩ := sameRecord_trans urecord wrecord
  have hconfig : sameConfig s w := sameConfig_trans uconfig wconfig
  have wscale : w.scale = s.scale := scale_of_sameConfig hconfig
  -- the commit
  obtain ⟨t, now, ht, tdone, tfv, tframe, hheld⟩ := frame_committed wseq (wop.trans uop) (wcnt ▸ hone)
    (by rw [wcnt]; exact noReset_of_runEvents hw hnu) (by rwa [wscale])
  have tacc : t.acc = w.acc := (congrArg State.acc hheld :)
  have traw : t.raw = w.dTmp := (congrArg State.raw hheld :)
  have tvalue : t.value = if i = .acquire then calibrate w.dTmp w.offset w.scale else w.value :=
    (congrArg State.value hheld :)
  have tcount : t.frameCount = if i = .acquire then w.frameCount + 1#64 else w.frameCount :=
    (congrArg State.frameCount hheld :)
  have trate : t.rate = if i = .acquire
      then frameRate w.build.tickHz (w.frameCount + 1#64) (now - w.startTime) else w.rate :=
    (congrArg State.rate hheld :)
  have hrun := runEvents_append hrunu (runEvents_append hw ht)
  rw [wcnt, List.append_nil, List.nil_append, usettle, ← Nat.add_assoc, ← Nat.add_assoc] at hrun
  refine ⟨bits, t, hlen, fun k hk => ?_, hrun, tacc.trans wacc, (congrArg State.bitcnt hheld :).trans wbitcnt,
    by rw [traw, wtmp, tacc], (congrArg State.seq hheld :), (congrArg State.op hheld :), tdone,
    (congrArg State.sckQ hheld :).trans wsck, (congrArg State.lastBit hheld :).trans (wlast.trans ulast),
    (congrArg State.startTime hheld :).trans wstart, sameConfig_of_held hheld hconfig, ?_⟩
  · obtain ⟨v, hv, hbit⟩ := hsample k hk
    rw [usettle] at hv
    exact ⟨v, (runEvents_append hrunu hv :), hbit⟩
  · split
    · next hi =>
      rw [if_pos hi] at tvalue tcount
      obtain ⟨woffset, -⟩ := hconfig
      exact ⟨by rw [tvalue, traw, woffset, wscale], by rw [tcount, wcount], tframe hi, by simp [tfv, hi]⟩
    · next hi =>
      rw [if_neg hi] at tvalue tcount trate
      exact ⟨tvalue.trans wvalue, trate.trans wrate, tcount.trans wcount, by simp [tfv, hi]⟩

end Sys2Proof.Machine
end

section
/-! PROOFS. O42, O43: the edge of PROCESS that commits CALIBRATE or RECORD_RATE, with all that it leaves alone. -/

namespace Sys2Proof.Machine

/-- A running CALIBRATE has a valid SCALE (R69, R92). -/
theorem scaleValid_of_calibrate {s : State} (hinv : s.Inv) (ho : s.op = .calibrate) : f64Valid s.scale = true := by
  obtain ⟨-, -, -, -, hscale, -⟩ := inv_iff_placeOk.mp hinv
  exact hscale (by rw [ho]; rfl)

/-- Settles O42: the invariant gives the SCALE that the commit needs. -/
theorem calibrateCommit : Obligations.CalibrateCommit := by
  intro s hinv h hq ho
  obtain ⟨d, f, e, c, k, g, hs⟩ := step_of_commit h hq fun u uo us =>
    processEnd_calibrate (uo.trans ho) ((congrArg f64Valid us).trans (scaleValid_of_calibrate hinv ho))
  exact ⟨_, hs, rfl, rfl, rfl, rfl, rfl, rfl, rfl, rfl, rfl, ⟨rfl, rfl, rfl⟩, sameConfig_refl s⟩

/-- Settles O43: what the host does at that edge does not touch the count, START_TIME or `now`. -/
theorem recordRateCommit : Obligations.RecordRateCommit := by
  intro s h hq ho
  obtain ⟨d, f, e, c, k, g, hs⟩ := step_of_commit h hq fun u uo _ => processEnd_recordRate (uo.trans ho)
  exact ⟨_, hs, rfl, rfl, rfl, rfl, rfl, rfl, rfl, rfl, rfl, ⟨rfl, rfl, rfl⟩, sameConfig_refl s⟩

end Sys2Proof.Machine
end

section
/-! PROOFS. O51, O52, O53, O54: `calibrate` and the rate (spec R90 to R95) as quotients rounded once (O50). A result is
a sign and a magnitude (`calibMagnitude`); the magnitude grows with the difference, stays in range, and is zero only for
a zero difference. -/

namespace Sys2Proof.Machine

/-! ## The magnitude of a rounded quotient -/

/-- Magnitude bits, 62:0, of `rneQuotient`, a zero quotient included (R12). -/
def quotientMagnitude (num den : Nat) : Nat := if num = 0 then 0 else quotientBits num den

theorem rneQuotient_eq_magnitude (neg : Bit) (num den : Nat) :
    rneQuotient neg num den = f64OfMagnitude neg (quotientMagnitude num den) := rfl

theorem quotientMagnitude_le_inf (num den : Nat) : quotientMagnitude num den ≤ f64InfBits := by
  rw [quotientMagnitude]
  split
  · exact Nat.zero_le _
  · exact min_le_right _ _

theorem toNat_lowBits_ofMagnitude {mag : Nat} (neg : Bit) (h : mag < 2 ^ 63) :
    ((f64OfMagnitude neg mag).extractLsb' 0 63).toNat = mag := by
  rw [BitVec.extractLsb'_toNat, toNat_f64OfMagnitude neg h, Nat.shiftRight_zero]
  split <;> omega

theorem f64Order_ofMagnitude {mag : Nat} (neg : Bit) (h : mag < 2 ^ 63) :
    f64Order (f64OfMagnitude neg mag) = if neg then -(mag : Int) else mag := by
  rw [f64Order, f64Sign_ofMagnitude neg h, toNat_lowBits_ofMagnitude neg h]

/-! ## Rounding is monotone -/

theorem roundHalfEven_mono {m n den : Nat} (hden : 0 < den) (h : m ≤ n) :
    roundHalfEven m den ≤ roundHalfEven n den := by
  rcases h.eq_or_lt with rfl | hlt
  · exact le_rfl
  · obtain ⟨-, hm, -⟩ := roundHalfEven_nearest m den hden
    obtain ⟨hn, -, -⟩ := roundHalfEven_nearest n den hden
    have hscaled : 2 * roundHalfEven m den * den < (2 * roundHalfEven n den + 2) * den := by
      calc 2 * roundHalfEven m den * den ≤ 2 * m + den := hm
        _ < 2 * n + den := by omega
        _ ≤ (2 * roundHalfEven n den + 1) * den + den := by omega
        _ = (2 * roundHalfEven n den + 2) * den := by ring
    have := Nat.lt_of_mul_lt_mul_right hscaled
    omega

section Mono

variable {m n den : Nat} (hm : m ≠ 0) (hd : den ≠ 0) (h : m ≤ n)
include hm hd h

/-- A greater quotient lies in no lower binade. -/
theorem quotientLog2_mono : quotientLog2 m den ≤ quotientLog2 n den := by
  obtain ⟨hlow, -⟩ := quotientLog2_spec hm hd
  obtain ⟨-, hhigh⟩ := quotientLog2_spec (by omega : n ≠ 0) hd
  rw [quotientGe_iff] at hlow
  rw [← Bool.not_eq_true, quotientGe_iff, not_le] at hhigh
  have hd' : (0 : ℚ) < den := by exact_mod_cast Nat.pos_of_ne_zero hd
  have hbinades : (den : ℚ) * 2 ^ quotientLog2 m den < den * 2 ^ (quotientLog2 n den + 1) :=
    calc (den : ℚ) * 2 ^ quotientLog2 m den ≤ m := hlow
      _ ≤ n := by exact_mod_cast h
      _ < den * 2 ^ (quotientLog2 n den + 1) := hhigh
  rw [mul_lt_mul_iff_right₀ hd', zpow_lt_zpow_iff_right₀ (by norm_num)] at hbinades
  omega

/-- In one binade the significands compare; a significand carries at most to the start of the next binade (R12). -/
theorem quotientBits_mono : quotientBits m den ≤ quotientBits n den := by
  have hlog := quotientLog2_mono hm hd h
  have hulp : quotientUlp m den ≤ quotientUlp n den := by simp only [quotientUlp]; omega
  have hleast := quotientUlp_ge m den
  refine min_le_min_right _ ?_
  rcases hulp.eq_or_lt with heq | hlt
  · have hsig : quotientSignificand m den ≤ quotientSignificand n den := by
      simp only [quotientSignificand, heq]
      exact roundHalfEven_mono (by positivity) (Nat.mul_le_mul_right _ h)
    rw [heq]
    omega
  · obtain ⟨hcarry, -⟩ := quotientSignificand_bounds hm hd
    obtain ⟨-, hnormal⟩ := quotientSignificand_bounds (by omega : n ≠ 0) hd
    have hhidden := hnormal (by omega)
    omega

end Mono

theorem quotientMagnitude_mono {m n den : Nat} (hd : den ≠ 0) (h : m ≤ n) :
    quotientMagnitude m den ≤ quotientMagnitude n den := by
  rw [quotientMagnitude, quotientMagnitude]
  split
  · exact Nat.zero_le _
  · next hm => rw [if_neg (by omega)]; exact quotientBits_mono hm hd h

/-! ## Quotients that do not round to zero -/

section NotTiny

variable {num den : Nat} (hn : num ≠ 0) (hd : den ≠ 0) (h : (2 : ℚ) ^ (-1074 : Int) ≤ num / den)
include hn hd h

/-- A quotient of at least the least subnormal keeps a significand. -/
theorem quotientSignificand_pos : 0 < quotientSignificand num den := by
  by_cases hu : quotientUlp num den = -1074
  · obtain ⟨hnear, -⟩ := quotientSignificand_nearest num hd
    have hunit : (0 : ℚ) < 2 ^ (-1074 : Int) := by positivity
    rw [quotient_eq_inUlps hd, hu, le_mul_iff_one_le_left hunit] at h
    have hpos : (0 : ℚ) < quotientSignificand num den := by linarith [(abs_le.mp hnear).2]
    exact_mod_cast hpos
  · obtain ⟨-, hnormal⟩ := quotientSignificand_bounds hn hd
    have hhidden := hnormal hu
    omega

theorem quotientMagnitude_pos : 0 < quotientMagnitude num den := by
  have hsig := quotientSignificand_pos hn hd h
  rw [quotientMagnitude, if_neg hn, quotientBits]
  exact lt_min (by omega) (by decide)

end NotTiny

/-! ## A valid SCALE -/

theorem abs_f64Value (x : F64) : |f64Value x| = f64Significand x * 2 ^ f64Power x := by
  have hsize : (0 : ℚ) ≤ f64Significand x * 2 ^ f64Power x := by positivity
  rw [f64Value, mul_assoc, abs_mul, abs_of_nonneg hsize]
  split <;> simp

theorem f64Value_eq_signed_abs (x : F64) : f64Value x = (if f64Sign x then -1 else 1) * |f64Value x| := by
  rw [abs_f64Value, f64Value, mul_assoc]

section Valid

variable {x : F64} (h : f64Valid x = true)
include h

theorem f64Exponent_lt_of_valid : f64Exponent x < 2047 := by
  have hlt : f64Exponent x < 2 ^ 11 := (x.extractLsb' 52 11).isLt
  obtain ⟨hfin, -⟩ := (f64Valid_iff x).mp h
  exact lt_of_le_of_ne (Nat.le_of_lt_succ hlt) fun he => hfin (BitVec.eq_of_toNat_eq he)

/-- Exponent and fraction field make up bits 62:0, so a valid pattern has a significand. -/
theorem f64Significand_ne_zero : f64Significand x ≠ 0 := by
  obtain ⟨-, hnz⟩ := (f64Valid_iff x).mp h
  intro hzero
  rw [f64Significand] at hzero
  split at hzero
  · next hexp =>
    refine hnz (BitVec.eq_of_toNat_eq ?_)
    rw [f64Exponent, BitVec.extractLsb'_toNat, Nat.shiftRight_eq_div_pow] at hexp
    rw [f64Fraction, BitVec.extractLsb'_toNat, Nat.shiftRight_zero] at hzero
    rw [BitVec.extractLsb'_toNat, Nat.shiftRight_zero, BitVec.toNat_ofNat]
    omega
  · omega

theorem abs_f64Value_pos : 0 < |f64Value x| := by
  have hsig : (0 : ℚ) < f64Significand x := by exact_mod_cast Nat.pos_of_ne_zero (f64Significand_ne_zero h)
  rw [abs_f64Value]
  positivity

/-- A finite number is below 2^1024 (R91). -/
theorem abs_f64Value_lt : |f64Value x| < 2 ^ (1024 : Int) := by
  have hexp := f64Exponent_lt_of_valid h
  have hpower : f64Power x ≤ 971 := by unfold f64Power; split <;> omega
  have hsig : (f64Significand x : ℚ) < 2 ^ 53 := by exact_mod_cast f64Significand_lt x
  rw [abs_f64Value]
  calc (f64Significand x : ℚ) * 2 ^ f64Power x < 2 ^ 53 * 2 ^ f64Power x := by gcongr
    _ ≤ 2 ^ 53 * 2 ^ (971 : Int) := by gcongr; norm_num
    _ = 2 ^ (1024 : Int) := by rw [← zpow_natCast, ← zpow_add₀ (by norm_num)]; norm_num

end Valid

/-! ## The magnitude of `calibrate` -/

/-- The numerator and the denominator that `calibrate` rounds for a difference of size `n` (R90). -/
def calibNum (scale : F64) (n : Nat) : Nat := n * 2 ^ (-f64Power scale).toNat

def calibDen (scale : F64) : Nat := f64Significand scale * 2 ^ (f64Power scale).toNat

/-- Magnitude bits of `calibrate` for a difference of size `n` (R90). -/
def calibMagnitude (scale : F64) (n : Nat) : Nat := quotientMagnitude (calibNum scale n) (calibDen scale)

/-- The sign of `calibrate`: the difference's times SCALE's, SCALE's for a zero difference (R90, R91). -/
def calibNeg (scale : F64) (diff : Int) : Bit := decide (diff < 0) ^^ f64Sign scale

theorem calibrate_eq_rneQuotient (raw : U24) (offset : Word) (scale : F64) :
    calibrate raw offset scale = rneQuotient (calibNeg scale (calibDiff raw offset))
      (calibNum scale (calibDiff raw offset).natAbs) (calibDen scale) := rfl

theorem calibrate_eq_ofMagnitude (raw : U24) (offset : Word) (scale : F64) :
    calibrate raw offset scale = f64OfMagnitude (calibNeg scale (calibDiff raw offset))
      (calibMagnitude scale (calibDiff raw offset).natAbs) := rfl

theorem calibNum_ne_zero (scale : F64) {n : Nat} (h : n ≠ 0) : calibNum scale n ≠ 0 :=
  Nat.mul_ne_zero h (by positivity)

/-- The quotient that is rounded is the exact one of the two sizes (R90). -/
theorem calibNum_div_calibDen (scale : F64) (n : Nat) :
    (calibNum scale n : ℚ) / calibDen scale = n / |f64Value scale| := by
  rw [abs_f64Value, zpow_split, calibNum, calibDen]
  push_cast
  rw [← mul_div_assoc, div_div_eq_mul_div]

/-- The signs of the difference and of SCALE make the sign of the quotient (R90). -/
theorem signed_calibQuotient (scale : F64) (diff : Int) :
    (if calibNeg scale diff then -1 else 1) * ((calibNum scale diff.natAbs : ℚ) / calibDen scale)
      = diff / f64Value scale := by
  rw [calibNum_div_calibDen, f64Value_eq_signed_abs scale, calibNeg, Nat.cast_natAbs, Int.cast_abs]
  rcases lt_or_ge diff 0 with hneg | hnonneg
  · have hneg' : (diff : ℚ) < 0 := by exact_mod_cast hneg
    cases f64Sign scale <;> simp [hneg, abs_of_neg hneg', neg_div, div_neg]
  · have hnonneg' : (0 : ℚ) ≤ diff := by exact_mod_cast hnonneg
    cases f64Sign scale <;> simp [hnonneg.not_gt, abs_of_nonneg hnonneg', div_neg]

theorem calibMagnitude_le_inf (scale : F64) (n : Nat) : calibMagnitude scale n ≤ f64InfBits :=
  quotientMagnitude_le_inf _ _

theorem calibMagnitude_lt (scale : F64) (n : Nat) : calibMagnitude scale n < 2 ^ 63 :=
  (calibMagnitude_le_inf scale n).trans_lt (by decide)

@[simp] theorem calibMagnitude_zero (scale : F64) : calibMagnitude scale 0 = 0 := by
  simp [calibMagnitude, quotientMagnitude, calibNum]

/-- The difference is at most 2^31 - 1 below 0 and 2^31 + 2^24 - 1 above (R90). -/
theorem calibDiff_bounds (raw : U24) (offset : Word) :
    -2147483647 ≤ calibDiff raw offset ∧ calibDiff raw offset ≤ 2164260863 := by
  have hraw : raw.toNat < 2 ^ 24 := raw.isLt
  have hlow := offset.le_toInt
  have hhigh := offset.toInt_lt
  rw [calibDiff]
  omega

theorem calibDiff_eq_zero_iff {raw : U24} {offset : Word} :
    calibDiff raw offset = 0 ↔ (raw.toNat : Int) = offset.toInt := sub_eq_zero

section ValidScale

variable {scale : F64} (h : f64Valid scale = true)
include h

theorem calibDen_ne_zero : calibDen scale ≠ 0 := Nat.mul_ne_zero (f64Significand_ne_zero h) (by positivity)

/-- A difference of 1 by the largest SCALE is still above the least subnormal (R91). -/
theorem calibMagnitude_eq_zero_iff {n : Nat} : calibMagnitude scale n = 0 ↔ n = 0 := by
  refine ⟨fun hzero => ?_, fun hzero => by rw [hzero, calibMagnitude_zero]⟩
  by_contra hn
  refine absurd hzero (quotientMagnitude_pos (calibNum_ne_zero scale hn) (calibDen_ne_zero h) ?_).ne'
  rw [calibNum_div_calibDen]
  have hone : (1 : ℚ) ≤ n := by exact_mod_cast Nat.one_le_iff_ne_zero.mpr hn
  have hpos := abs_f64Value_pos h
  calc (2 : ℚ) ^ (-1074 : Int) ≤ 2 ^ (-1024 : Int) := zpow_le_zpow_right₀ (by norm_num) (by norm_num)
    _ = 1 / 2 ^ (1024 : Int) := by rw [zpow_neg, one_div]
    _ ≤ 1 / |f64Value scale| := one_div_le_one_div_of_le hpos (abs_f64Value_lt h).le
    _ ≤ n / |f64Value scale| := by gcongr

theorem calibMagnitude_mono {m n : Nat} (hmn : m ≤ n) : calibMagnitude scale m ≤ calibMagnitude scale n :=
  quotientMagnitude_mono (calibDen_ne_zero h) (Nat.mul_le_mul_right _ hmn)

end ValidScale

/-! ## `calibrate` -/

/-- Settles O51: away from OFFSET it is the quotient rounded once (O50), at OFFSET the zero of SCALE's sign. -/
theorem calibrateIsTheRoundedQuotient : Obligations.CalibrateIsTheRoundedQuotient := by
  intro raw offset scale h
  refine ⟨fun hne => ?_, fun heq => ?_, calibDiff_bounds raw offset⟩
  · have hdiff : (calibDiff raw offset).natAbs ≠ 0 := Int.natAbs_ne_zero.mpr (mt calibDiff_eq_zero_iff.mp hne)
    rw [← calibDiff, calibrate_eq_rneQuotient, ← signed_calibQuotient]
    exact quotientIsRoundedOnce _ _ _ (calibNum_ne_zero scale hdiff) (calibDen_ne_zero h)
  · rw [calibrate_eq_ofMagnitude, calibDiff_eq_zero_iff.mpr heq, Int.natAbs_zero, calibMagnitude_zero, calibNeg]
    cases f64Sign scale <;> rfl

/-- Settles O52: the magnitude bits are zero only for a zero difference, and at most those of infinity. -/
theorem calibrateIsZeroOnlyAtOffset : Obligations.CalibrateIsZeroOnlyAtOffset := by
  intro raw offset scale h
  have hlow := toNat_lowBits_ofMagnitude (calibNeg scale (calibDiff raw offset))
    (calibMagnitude_lt scale (calibDiff raw offset).natAbs)
  rw [← calibrate_eq_ofMagnitude] at hlow
  refine ⟨?_, fun heq => ?_, hlow ▸ calibMagnitude_le_inf _ _⟩
  · rw [← BitVec.toNat_inj, hlow, BitVec.toNat_ofNat, Nat.zero_mod, calibMagnitude_eq_zero_iff h,
      Int.natAbs_eq_zero, calibDiff_eq_zero_iff]
  · rw [calibrate_eq_ofMagnitude, f64Sign_ofMagnitude _ (calibMagnitude_lt _ _), calibDiff_eq_zero_iff.mpr heq,
      calibNeg]
    exact Bool.false_xor _

/-- The magnitude of `calibrate` with the sign of the difference: its place in binary64's order for a positive SCALE. -/
def calibOrder (scale : F64) (diff : Int) : Int :=
  if diff < 0 then -(calibMagnitude scale diff.natAbs : Int) else calibMagnitude scale diff.natAbs

/-- A negative SCALE turns the order around (R93). -/
theorem f64Order_calibrate (raw : U24) (offset : Word) (scale : F64) :
    f64Order (calibrate raw offset scale)
      = if f64Sign scale then -calibOrder scale (calibDiff raw offset)
        else calibOrder scale (calibDiff raw offset) := by
  rw [calibrate_eq_ofMagnitude, f64Order_ofMagnitude _ (calibMagnitude_lt _ _), calibNeg, calibOrder]
  by_cases hneg : calibDiff raw offset < 0 <;> cases f64Sign scale <;> simp [hneg]

/-- Below 0 the size falls as the difference rises, from 0 on it rises. -/
theorem calibOrder_mono {scale : F64} (h : f64Valid scale = true) {a b : Int} (hab : a ≤ b) :
    calibOrder scale a ≤ calibOrder scale b := by
  rw [calibOrder, calibOrder]
  split
  · split
    · have := calibMagnitude_mono h (by omega : b.natAbs ≤ a.natAbs)
      omega
    · omega
  · rw [if_neg (by omega)]
    exact_mod_cast calibMagnitude_mono h (by omega : a.natAbs ≤ b.natAbs)

/-- Settles O53: the difference rises with raw. -/
theorem calibrateIsMonotone : Obligations.CalibrateIsMonotone := by
  intro a b offset scale h hab
  have hdiff : calibDiff a offset ≤ calibDiff b offset := Int.sub_le_sub_right (by exact_mod_cast hab) _
  have hmono := calibOrder_mono h hdiff
  rw [f64Order_calibrate, f64Order_calibrate]
  refine ⟨fun hsign => ?_, fun hsign => ?_⟩ <;> rw [hsign]
  · exact hmono
  · exact neg_le_neg hmono

/-! ## The rate -/

theorem pow_lt_overflowThreshold : (2 : ℚ) ^ 96 < 2 ^ 1024 - 2 ^ 970 := by
  have htop : (2 : ℚ) ^ 96 ≤ 2 ^ (971 : Int) := by
    rw [← zpow_natCast]
    exact zpow_le_zpow_right₀ (by norm_num) (by norm_num)
  rw [overflowThreshold_eq]
  generalize (2 : ℚ) ^ (971 : Int) = top at *
  linarith

/-- RATE's quotient is neither too large nor too small for a finite binary64 number (R95). -/
theorem rateQuotient_bounds {tickHz count elapsed : Nat} (ht : 0 < tickHz) (htick : tickHz ≤ 4294967295)
    (hc : 0 < count) (hcount : count < 2 ^ 64) (he : 0 < elapsed) (helapsed : elapsed < 2 ^ 64) :
    (2 : ℚ) ^ (-1074 : Int) ≤ ((count * tickHz : Nat) : ℚ) / elapsed
      ∧ ((count * tickHz : Nat) : ℚ) / elapsed < 2 ^ 1024 - 2 ^ 970 := by
  have hone : (1 : ℚ) ≤ (count * tickHz : Nat) := by exact_mod_cast Nat.mul_pos hc ht
  have hnum : ((count * tickHz : Nat) : ℚ) ≤ 2 ^ 96 := by
    exact_mod_cast (Nat.mul_le_mul hcount.le htick).trans (by norm_num)
  have he1 : (1 : ℚ) ≤ elapsed := by exact_mod_cast he
  have he2 : (elapsed : ℚ) ≤ 2 ^ 64 := by exact_mod_cast helapsed.le
  constructor
  · calc (2 : ℚ) ^ (-1074 : Int) ≤ 2 ^ (-64 : Int) := zpow_le_zpow_right₀ (by norm_num) (by norm_num)
      _ = 1 / 2 ^ 64 := by norm_num
      _ ≤ (count * tickHz : Nat) / elapsed := div_le_div₀ (by linarith) hone (by linarith) he2
  · calc ((count * tickHz : Nat) : ℚ) / elapsed ≤ (count * tickHz : Nat) := div_le_self (by linarith) he1
      _ ≤ 2 ^ 96 := hnum
      _ < 2 ^ 1024 - 2 ^ 970 := pow_lt_overflowThreshold

theorem frameRate_eq_zero (tickHz : Nat) {count elapsed : U64} (h : elapsed = 0#64 ∨ count = 0#64) :
    frameRate tickHz count elapsed = 0#64 := by
  rcases h with rfl | rfl
  · exact if_pos rfl
  · simp [frameRate, rneQuotient]

/-- Settles O54: the quotient is rounded once (O50) and lies where a result is finite and not zero. -/
theorem rateIsTheRoundedQuotient : Obligations.RateIsTheRoundedQuotient := by
  intro tickHz count elapsed ht htick
  refine ⟨frameRate_eq_zero tickHz, fun he hc => ?_⟩
  have he' : elapsed.toNat ≠ 0 := fun h => he (BitVec.eq_of_toNat_eq h)
  have hc' : count.toNat ≠ 0 := fun h => hc (BitVec.eq_of_toNat_eq h)
  have hnum : count.toNat * tickHz ≠ 0 := Nat.mul_ne_zero hc' ht.ne'
  obtain ⟨hlow, hhigh⟩ := rateQuotient_bounds ht htick (Nat.pos_of_ne_zero hc') count.isLt (Nat.pos_of_ne_zero he')
    elapsed.isLt
  obtain ⟨hfin, -, hval⟩ := rneQuotient_finite hnum he' false hhigh
  have hsig : (0 : ℚ) < quotientSignificand (count.toNat * tickHz) elapsed.toNat := by
    exact_mod_cast quotientSignificand_pos hnum he' hlow
  have hrne := quotientIsRoundedOnce false _ _ hnum he'
  rw [if_neg Bool.false_ne_true, one_mul] at hrne hval
  push_cast at hrne
  rw [frameRate, if_neg he]
  exact ⟨hrne, hfin, by rw [hval]; positivity⟩

end Sys2Proof.Machine
end

section
/-! PROOFS. O9, O44, O45, O48: RUN's first action, the commit of a frame's record by ACQUIRE and RUN, and RUN over any
number of edges. -/

namespace Sys2Proof.Machine

variable {s t u v : State}

/-- Settles O9: an idle block with a valid SCALE accepts RUN, whose first action is `startRun`. -/
theorem runStartsWithTheIdlePulse : Obligations.RunStartsWithTheIdlePulse := fun _ hb =>
  ⟨fun hv => congrArg Host.Outcome.next (offer_accepted .run startRun hb fun _ => hv),
    fun hv => exec_of_invalidScale hb rfl hv⟩

/-! ## The commit of a frame's record -/

/-- A running command that needs SCALE has a valid one (R69, R92). -/
theorem scaleValid_of_needsScale (hinv : s.Inv) (hn : needsScale s.op = true) : scaleValid s = true := by
  obtain ⟨-, -, -, -, hscale, -⟩ := inv_iff_placeOk.mp hinv
  exact hscale hn

/-- `t` has the record of the frame that `s` holds in D_TMP, `now` sampled at the edge between them, with FRAME_P and
FV_Q; START_TIME, the samples and the configuration are those of `s` (R100, R94). -/
structure RecordsFrame (s t : State) : Prop where
  raw : t.raw = s.dTmp
  value : t.value = calibrate s.dTmp s.offset s.scale
  frameCount : t.frameCount = s.frameCount + 1#64
  rate : t.rate = frameRate s.build.tickHz (s.frameCount + 1#64) ((portIn s).now - s.startTime)
  frameP : t.frameP = true
  fvQ : t.fvQ = true
  startTime : t.startTime = s.startTime
  samples : sameSamples s t
  config : sameConfig s t

/-- `frameCommit` writes the record whatever the host does at that edge (R100, R61). -/
theorem recordsFrame_frameCommit (d f e : Bit) (c : ErrCode) (k : BitVec 3) (g : Option ErrCode) (s : State) :
    RecordsFrame s (frameCommit s.dTmp (hostTouched (beginEdge s) d f e c k g)) :=
  ⟨rfl, rfl, rfl, rfl, rfl, rfl, rfl, ⟨rfl, rfl, rfl⟩, sameConfig_refl s⟩

theorem processEnd_run (ho : u.op = .run) (hv : scaleValid u = true) :
    processEnd u = .next (beginDelay (frameCommit u.dTmp u)) := by
  rw [processEnd, ho]
  exact if_pos hv

/-- Settles O44: the invariant gives the SCALE that the commit needs, and `complete` leaves the record alone. -/
theorem acquireCommit : Obligations.AcquireCommit := by
  intro s hinv h hq ho
  have hscale : scaleValid s = true := scaleValid_of_needsScale hinv (by rw [ho]; rfl)
  obtain ⟨d, f, e, c, k, g, hs⟩ := step_of_commit h hq fun u uo us =>
    processEnd_acquire (uo.trans ho) ((congrArg f64Valid us).trans hscale)
  have r := recordsFrame_frameCommit d f e c k g s
  exact ⟨_, hs, r.raw, r.value, r.frameCount, r.rate, r.frameP, r.fvQ, rfl, rfl, rfl, r.startTime, r.samples,
    r.config⟩

theorem recordsFrame_beginDelay (h : RecordsFrame s v) : RecordsFrame s (beginDelay v) := by
  obtain ⟨q, n, p, -, heq⟩ := beginDelay_eq v
  rw [heq]
  exact ⟨h.raw, h.value, h.frameCount, h.rate, h.frameP, h.fvQ, h.startTime, h.samples, h.config⟩

/-- DELAY for INTERFRAME cycles, or the next wait when INTERFRAME is 0, and no flag set (R103, R106). -/
theorem beginDelay_place (v : State) :
    (if v.interframe = 0#32
      then (beginDelay v).seq = .poll ∧ (beginDelay v).polls = 0#32 ∧ (beginDelay v).cnt = 1#32
      else (beginDelay v).seq = .delay ∧ (beginDelay v).cnt = v.interframe)
      ∧ (beginDelay v).op = v.op ∧ (beginDelay v).running = v.running ∧ (beginDelay v).doneP = v.doneP := by
  split
  · next hi => rw [beginDelay_of_zero hi]; exact ⟨⟨rfl, rfl, rfl⟩, rfl, rfl, rfl⟩
  · next hi => rw [beginDelay_of_ne_zero hi]; exact ⟨⟨rfl, rfl⟩, rfl, rfl, rfl⟩

/-- Settles O45: the record is written, and then RUN goes to DELAY, or to the wait in its place. -/
theorem runCommit : Obligations.RunCommit := by
  intro s hinv h hq ho
  obtain ⟨-, -, -, hrun, -⟩ := inv_iff_placeOk.mp hinv
  have hscale : scaleValid s = true := scaleValid_of_needsScale hinv (by rw [ho]; rfl)
  obtain ⟨d, f, e, c, k, g, hs, hdone⟩ := step_of_action (act := fun u => beginDelay (frameCommit s.dTmp u)) h
    fun d f e c k g => (nextAction_process (s := hostTouched (beginEdge s) d f e c k g) hq).trans
      (processEnd_run ho hscale)
  obtain ⟨hplace, hop, hrunning, hdoneP⟩ :=
    beginDelay_place (frameCommit s.dTmp (hostTouched (beginEdge s) d f e c k g))
  have r := recordsFrame_beginDelay (recordsFrame_frameCommit d f e c k g s)
  exact ⟨_, hs, r.raw, r.value, r.frameCount, r.rate, r.frameP, r.fvQ, fun h => hdone (hdoneP.symm.trans h),
    hop.trans ho, hrunning.trans (hrun.mpr ho), hplace, r.startTime, r.samples, r.config⟩

/-! ## RUN over any number of edges -/

/-- RUN has a next action in every STATE; only a commit needs a valid SCALE (R103, R90). -/
theorem nextAction_next_of_run (ho : u.op = .run) (hv : scaleValid u = true) : ∃ v, nextAction u = .next v := by
  have hframe : readsFrame u.op = true := by rw [ho]; rfl
  cases hq : u.seq with
  | idle => exact ⟨u, by rw [nextAction, hq]⟩
  | init =>
    cases hp : u.phase with
    | high => exact ⟨_, nextAction_init_high hq hp⟩
    | low => exact ⟨_, nextAction_init_low hq hp⟩
  | delay => exact ⟨_, nextAction_delay hq⟩
  | poll =>
    cases hd : doutLevel u with
    | false => exact ⟨_, nextAction_poll_ready hq hd⟩
    | true =>
      rw [nextAction_poll_failed hq hd]
      cases ht : pollsTimedOut u.timeout (pollsAfter u.polls) with
      | false => exact ⟨_, pollFailed_of_goesOn ht⟩
      | true => exact ⟨_, (pollFailed_of_timedOut ht).trans (timeoutStep_run ho)⟩
  | backoff => exact ⟨_, nextAction_backoff hq⟩
  | clocking =>
    cases hp : u.phase with
    | high => exact ⟨_, nextAction_frame_high hq hp hframe⟩
    | low => exact ⟨_, nextAction_frame_low hq hp hframe⟩
  | process => exact ⟨_, (nextAction_process hq).trans (processEnd_run ho hv)⟩

/-- While RUNNING is 1, OP is RUN and the block is busy (R18, R36). -/
theorem op_busy_of_running (hinv : s.Inv) (hrun : s.running = true) : s.op = .run ∧ busy s = true := by
  obtain ⟨-, -, ⟨-, ⟨hidle, -⟩, -⟩, hrunning, -⟩ := inv_iff_placeOk.mp hinv
  have ho : s.op = .run := hrunning.mp hrun
  refine ⟨ho, busy_iff.mpr fun hq => ?_⟩
  rw [hidle hq] at ho
  cases ho

/-- No edge without reset stops the block while RUN runs (R105, R107). -/
theorem step_next_of_running (hinv : s.Inv) (hrun : s.running = true) (hr : (portIn s).rst = false) :
    ∃ t, step s = .next t := by
  obtain ⟨ho, hb⟩ := op_busy_of_running hinv hrun
  obtain ⟨d, f, e, c, k, g, hs, -⟩ := step_of_busy hr hb
  have hscale : scaleValid s = true := scaleValid_of_needsScale hinv (by rw [ho]; rfl)
  obtain ⟨v, hv⟩ : ∃ v, advance (hostTouched (beginEdge s) d f e c k g) = .next v := by
    unfold advance
    split
    · exact nextAction_next_of_run ho hscale
    · exact ⟨_, rfl⟩
  exact ⟨_, by rw [hs, hv, andThen_next]⟩

/-- From `s` to `t` RUN went on: it still runs, DONE_P was not set, no configuration register changed (R105, R50). -/
structure RunHolds (s t : State) : Prop where
  inv : t.Inv
  running : t.running = true
  doneP : t.doneP = true → s.doneP = true
  config : sameConfig s t

theorem runHolds_refl (hinv : s.Inv) (hrun : s.running = true) : RunHolds s s :=
  ⟨hinv, hrun, id, sameConfig_refl s⟩

theorem runHolds_trans (h : RunHolds s t) (g : RunHolds t u) : RunHolds s u :=
  ⟨g.inv, g.running, fun hd => h.doneP (g.doneP hd), sameConfig_trans h.config g.config⟩

/-- RUN goes on at every edge without reset: BUSY locks the configuration, and a command sets DONE_P only where it ends
(R105, R111). -/
theorem runHolds_of_step (hinv : s.Inv) (hrun : s.running = true) (hr : (portIn s).rst = false)
    (h : step s = .next t) : RunHolds s t := by
  obtain ⟨-, hb⟩ := op_busy_of_running hinv hrun
  have hinv' : t.Inv := stepKeepsTheInvariant s t hinv h
  obtain ⟨u, v, w, p, rfl⟩ := edgeParts_of_step hr h
  have hrun' : w.running = true := by
    by_contra hstop
    obtain ⟨hidle, -⟩ := p.running (by rwa [hrun])
    simp [hb] at hidle
  refine ⟨hinv', hrun', fun hd => ?_, configFixedWhileBusy s _ hr hb h⟩
  obtain ⟨-, hb'⟩ := op_busy_of_running hinv' hrun'
  rcases p.doneP.mp hd with ⟨-, hidle⟩ | ⟨hs, -⟩
  · exact absurd (hidle.symm.trans hb') Bool.false_ne_true
  · exact hs

/-- RUN goes on over any number of edges without reset (R105). -/
theorem runHolds_of_noReset (n : Nat) (hinv : s.Inv) (hrun : s.running = true) (hn : s.noReset n) :
    ∃ t, Host.Core.run core n s = .next t ∧ RunHolds s t := by
  induction n generalizing s with
  | zero => exact ⟨s, rfl, runHolds_refl hinv hrun⟩
  | succ n ih =>
    have hr := rst_of_noReset hn
    obtain ⟨u, hu⟩ := step_next_of_running hinv hrun hr
    have hstep := runHolds_of_step hinv hrun hr hu
    have hnu : u.noReset n := noReset_of_runEvents (runEvents_one hu) (by rwa [Nat.add_comm])
    obtain ⟨t, ht, hrest⟩ := ih hstep.inv hstep.running hnu
    exact ⟨t, by rw [run_core_succ, hu]; exact ht, runHolds_trans hstep hrest⟩

/-- Settles O48: by the edges, each of which RUN goes on over; a reset edge clears RUNNING and OP. -/
theorem runHoldsUntilReset : Obligations.RunHoldsUntilReset := by
  refine ⟨fun s n hinv hrun hn => ?_, fun s hr => ⟨resetEdge s, step_of_reset hr, rfl, rfl, rfl⟩⟩
  obtain ⟨t, ht, hinv', hrun', hdone, hconfig⟩ := runHolds_of_noReset n hinv hrun hn
  obtain ⟨hop, hb⟩ := op_busy_of_running hinv' hrun'
  exact ⟨t, ht, hrun', hop, hb, hdone, hconfig⟩

end Sys2Proof.Machine
end

section
/-! PROOFS. O5: NOP. An edge at which the host writes nothing is the block's own offer and the running command: of the
input ports these two take notice of `dout` and `now` alone, so the host's may hold anything (`withHostPorts`). -/

namespace Sys2Proof.Machine

variable {p : EdgeIn} {s : State}

/-- The state with the ports of the coming cycle as in `p`, but `dout` and `now` as they were. -/
def withHostPorts (p : EdgeIn) (s : State) : State :=
  { s with inputs := { p with dout := (portIn s).dout, now := (portIn s).now } :: s.inputs.tail }

/-- The same in the state an outcome holds; a fault or a refusal stays. -/
def nextWithHostPorts (p : EdgeIn) (o : Host.Outcome State Fault Refusal) : Host.Outcome State Fault Refusal :=
  andThen o fun u => .next (withHostPorts p u)

@[simp] theorem nextWithHostPorts_next (p : EdgeIn) (s : State) :
    nextWithHostPorts p (.next s) = .next (withHostPorts p s) := rfl

@[simp] theorem withHostPorts_seq : (withHostPorts p s).seq = s.seq := rfl
@[simp] theorem withHostPorts_op : (withHostPorts p s).op = s.op := rfl
@[simp] theorem withHostPorts_build : (withHostPorts p s).build = s.build := rfl
@[simp] theorem scaleValid_withHostPorts : scaleValid (withHostPorts p s) = scaleValid s := rfl
@[simp] theorem waitEnds_withHostPorts : waitEnds (withHostPorts p s) = waitEnds s := rfl
@[simp] theorem withHostPorts_fresh : (withHostPorts p s).fresh = s.fresh := rfl
@[simp] theorem busy_withHostPorts : busy (withHostPorts p s) = busy s := rfl
@[simp] theorem withHostPorts_phase : (withHostPorts p s).phase = s.phase := rfl

theorem offer_withHostPorts (i : Instr) {start : State → State}
    (h : ∀ u, start (withHostPorts p u) = withHostPorts p (start u)) :
    offer i start (withHostPorts p s) = withHostPorts p (offer i start s) := by
  rcases offer_cases i start s with ⟨hb, ho⟩ | ⟨hb, hn, hv, ho⟩ | ⟨hb, hv, ho⟩ <;> rw [ho]
  · exact offer_busy i start hb
  · exact offer_cfgScale i start hb hn hv
  · exact (offer_accepted (s := withHostPorts p s) i start hb hv).trans (h { s with op := i })

theorem exec_withHostPorts (i : Instr) : exec i (withHostPorts p s) = nextWithHostPorts p (exec i s) := by
  cases i with
  | nop => rfl
  | pulse | readFrame | decode | calibrate | recordRate | acquire | run =>
    exact congrArg Host.Outcome.next (offer_withHostPorts _ fun _ => rfl)

theorem selfOffer_withHostPorts (first : Bool) :
    selfOffer first (withHostPorts p s) = nextWithHostPorts p (selfOffer first s) := by
  unfold selfOffer
  rw [withHostPorts_build]
  split
  · exact exec_withHostPorts .run
  · rfl

theorem beginDelay_withHostPorts : beginDelay (withHostPorts p s) = withHostPorts p (beginDelay s) := by
  by_cases hi : s.interframe = 0#32
  · rw [beginDelay_of_zero hi, beginDelay_of_zero (u := withHostPorts p s) hi]; rfl
  · rw [beginDelay_of_ne_zero hi, beginDelay_of_ne_zero (u := withHostPorts p s) hi]; rfl

theorem endFramePulse_withHostPorts : endFramePulse (withHostPorts p s) = withHostPorts p (endFramePulse s) :=
  (apply_ite (withHostPorts p) (s.bitcnt.toNat < Config.pulsesPerFrame) (pulseRise s) (endFrame s)).symm

theorem timeoutStep_withHostPorts : timeoutStep (withHostPorts p s) = nextWithHostPorts p (timeoutStep s) := by
  unfold timeoutStep
  rw [withHostPorts_op]
  cases s.op with
  | run => exact congrArg Host.Outcome.next (beginDelay_withHostPorts (s := raiseErr .readyTimeout s))
  | readFrame | acquire | nop | pulse | decode | calibrate | recordRate => rfl

/-- A poll reads `dout` alone (R79). -/
theorem nextAction_withHostPorts_of_poll (hq : s.seq = .poll) :
    nextAction (withHostPorts p s) = nextWithHostPorts p (nextAction s) := by
  cases hd : doutLevel s with
  | false => rw [nextAction_poll_ready hq hd, nextAction_poll_ready (s := withHostPorts p s) hq hd]; rfl
  | true =>
    rw [nextAction_poll_failed hq hd, nextAction_poll_failed (s := withHostPorts p s) hq hd]
    cases ht : pollsTimedOut s.timeout (pollsAfter s.polls) with
    | false => rw [pollFailed_of_goesOn ht, pollFailed_of_goesOn (u := withHostPorts p s) ht]; rfl
    | true =>
      rw [pollFailed_of_timedOut ht, pollFailed_of_timedOut (u := withHostPorts p s) ht]
      exact timeoutStep_withHostPorts (s := pollCounted s)

theorem clockingSample_withHostPorts : clockingSample (withHostPorts p s) = nextWithHostPorts p (clockingSample s) := by
  unfold clockingSample
  rw [withHostPorts_op]
  cases s.op <;> rfl

theorem clockingEnd_withHostPorts : clockingEnd (withHostPorts p s) = nextWithHostPorts p (clockingEnd s) := by
  unfold clockingEnd
  rw [withHostPorts_op]
  cases s.op with
  | readFrame | acquire | run => exact congrArg Host.Outcome.next endFramePulse_withHostPorts
  | pulse | nop | decode | calibrate | recordRate => rfl

theorem withValidScale_withHostPorts {f : State → State} (h : f (withHostPorts p s) = withHostPorts p (f s)) :
    withValidScale f (withHostPorts p s) = nextWithHostPorts p (withValidScale f s) := by
  cases hv : scaleValid s with
  | true => simp only [withValidScale, scaleValid_withHostPorts, hv, h]; rfl
  | false => simp only [withValidScale, scaleValid_withHostPorts, hv]; rfl

theorem processEnd_withHostPorts : processEnd (withHostPorts p s) = nextWithHostPorts p (processEnd s) := by
  unfold processEnd
  rw [withHostPorts_op]
  cases s.op with
  | calibrate | acquire => exact withValidScale_withHostPorts rfl
  | run => exact withValidScale_withHostPorts (beginDelay_withHostPorts (s := frameCommit s.dTmp s))
  | readFrame | decode | recordRate | nop | pulse => rfl

/-- The action that ends a Wait reads `dout` and `now` alone of the input ports (R56, R10). -/
theorem nextAction_withHostPorts : nextAction (withHostPorts p s) = nextWithHostPorts p (nextAction s) := by
  cases hq : s.seq with
  | poll => exact nextAction_withHostPorts_of_poll hq
  | process => rw [nextAction_process hq, nextAction_process (s := withHostPorts p s) hq, processEnd_withHostPorts]
  | idle | delay | backoff =>
    simp only [nextAction, withHostPorts_seq, hq]
    rfl
  | init =>
    simp only [nextAction, withHostPorts_seq, withHostPorts_phase, hq]
    cases s.phase <;> rfl
  | clocking =>
    simp only [nextAction, withHostPorts_seq, withHostPorts_phase, hq]
    cases s.phase with
    | high => exact clockingSample_withHostPorts
    | low => exact clockingEnd_withHostPorts

theorem sequencerPart_withHostPorts (wasBusy : Bool) :
    sequencerPart wasBusy (withHostPorts p s) = nextWithHostPorts p (sequencerPart wasBusy s) := by
  cases wasBusy with
  | false => rfl
  | true =>
    change advance (withHostPorts p s) = nextWithHostPorts p (advance s)
    cases hw : waitEnds s with
    | true => rw [advance_of_waitEnds hw, advance_of_waitEnds (s := withHostPorts p s) hw, nextAction_withHostPorts]
    | false => simp only [advance, waitEnds_withHostPorts, hw]; rfl

/-- With no write on the host's ports the host's part of an edge does nothing (R51). -/
theorem hostPart_withHostPorts_of_noWrite (h : p.regWr = false) :
    hostPart (withHostPorts p s) = .next (withHostPorts p s) :=
  if_neg (Bool.eq_false_iff.mp (h : (portIn (withHostPorts p s)).regWr = false))

/-- With no write on the host's ports an edge is the own offer and the running command; what the ports hold else is for
the read alone (R61, R47). -/
theorem step_withHostPorts_of_noWrite (hr : p.rst = false) (hw : p.regWr = false) :
    step (withHostPorts p s)
      = andThen (selfOffer s.fresh (beginEdge s)) fun u =>
          andThen (sequencerPart (busy s) u) fun w => .next (finishEdge (regRdata (withHostPorts p s)) w) := by
  have hself : selfOffer s.fresh (beginEdge (withHostPorts p s))
      = nextWithHostPorts p (selfOffer s.fresh (beginEdge s)) :=
    selfOffer_withHostPorts (s := beginEdge s) s.fresh
  obtain ⟨u, hu⟩ := selfOffer_next s.fresh (beginEdge s)
  rw [step_of_run (s := withHostPorts p s) hr, runEdge, withHostPorts_fresh, busy_withHostPorts, hself, hu,
    nextWithHostPorts_next, andThen_next, andThen_next, hostPart_withHostPorts_of_noWrite hw, andThen_next,
    sequencerPart_withHostPorts]
  cases sequencerPart (busy s) u <;> rfl

/-- The edge without the host's write, by the parts of the edge as it was (R61). -/
theorem step_withoutWrite (hr : (portIn s).rst = false) :
    step s.withoutWrite
      = andThen (selfOffer s.fresh (beginEdge s)) fun u =>
          andThen (sequencerPart (busy s) u) fun w => .next (finishEdge (regRdata s) w) :=
  step_withHostPorts_of_noWrite (p := { portIn s with regWr := false }) hr rfl

/-- Settles O5: NOP, like no write, leaves the host's part of an edge nothing to do; RSVD other than 0 is illegal. -/
theorem nopChangesNothing : Obligations.NopChangesNothing := by
  have hnop : decodeWord 0x00000000#32 = .command .nop := decodeWord_encode .nop
  refine ⟨hnop, fun _ => rfl, fun s h => ?_, fun w _ hrsvd => decodeWord_illegal_iff.mpr (.inl hrsvd)⟩
  obtain ⟨hparts, -⟩ := stepRunsTheOfferedCommand s _ .nop h hnop
  obtain ⟨hr, -⟩ := h
  exact hparts.trans (step_withoutWrite hr).symm

end Sys2Proof.Machine
end

section
/-! PROOFS. O12, O17, O18: the error record, `irq` as a word of enabled pending bits, and DONE_P. -/

namespace Sys2Proof.Machine

variable {s : State}

/-! ## The error record -/

/-- The first error of an edge is recorded as it is (R109). -/
theorem raiseErr_of_noEdgeErr (c : ErrCode) (h : s.edgeErr = none) :
    raiseErr c s = { s with errP := true, errCode := c, edgeErr := some c } := by
  rw [raiseErr, h, recordedErr]

theorem lowerErr_eq_or (c d : ErrCode) : lowerErr c d = c ∨ lowerErr c d = d := ite_eq_or_eq _ _ _

theorem code_lowerErr (c d : ErrCode) : (lowerErr c d).code.toNat = min c.code.toNat d.code.toNat := by
  unfold lowerErr
  split
  · next h => exact (min_eq_left h).symm
  · next h => exact (min_eq_right (Nat.le_of_not_le h)).symm

/-- A STATUS write with bit 10 set clears the record of earlier edges (R109, R18). -/
theorem clearPending_of_noEdgeErr {v : Word} (h10 : v.getLsbD 10 = true) (h : s.edgeErr = none) :
    (clearPending v s).errP = false ∧ (clearPending v s).errCode = .none := by
  have hclear : clearsErr v s = true := by rw [clearsErr, h10, h]; rfl
  rw [clearPending_errP, clearPending_errCode, hclear]
  exact ⟨Bool.and_false _, rfl⟩

/-- Settles O12: with no earlier error the code is recorded, else the lower one, and the clear looks at the edge's
error first. -/
theorem raisingRecordsTheLowerCode : Obligations.RaisingRecordsTheLowerCode := by
  refine ⟨fun c s h => raiseErr_of_noEdgeErr c h, fun c d s h => ?_, fun v s h10 =>
    ⟨clearPending_of_noEdgeErr h10, clearPending_of_edgeErr v⟩⟩
  have hcode : (raiseErr c s).errCode = lowerErr c d := by rw [raiseErr_errCode, h, recordedErr]
  rw [hcode]
  exact ⟨rfl, code_lowerErr c d, lowerErr_eq_or c d⟩

/-! ## The interrupt -/

theorem irq_eq_false_iff :
    irq s = false ↔ (s.doneP && s.ctrl.getLsbD 0) = false ∧ (s.frameP && s.ctrl.getLsbD 1) = false
      ∧ (s.errP && s.ctrl.getLsbD 2) = false := by
  rw [irq, Bool.or_eq_false_iff, Bool.or_eq_false_iff, and_assoc]
  rfl

/-- The bits of the word of enabled pending bits: STATUS[10:8] under CTRL[2:0] (R113). -/
theorem getLsbD_enabledPending (s : State) (i : Nat) :
    ((statusWord s >>> 8) &&& ctrlWord s &&& 7#32).getLsbD i =
      if i = 0 then s.doneP && s.ctrl.getLsbD 0
      else if i = 1 then s.frameP && s.ctrl.getLsbD 1
      else if i = 2 then s.errP && s.ctrl.getLsbD 2
      else false := by
  rw [ctrlWord_eq_setWidth]
  rcases Nat.lt_or_ge i 32 with h | h
  · simp only [BitVec.getLsbD_and, BitVec.getLsbD_ushiftRight, getLsbD_statusWord, BitVec.getLsbD_setWidth]
    interval_cases i <;> simp
  · rw [BitVec.getLsbD_of_ge _ _ h]
    simp (disch := omega) only [if_neg]

/-- `irq` is 0 exactly when that word is (R113). -/
theorem irq_eq_enabledPending (s : State) :
    irq s = decide ((statusWord s >>> 8) &&& ctrlWord s &&& 7#32 ≠ 0#32) := by
  have bit := getLsbD_enabledPending s
  generalize (statusWord s >>> 8) &&& ctrlWord s &&& 7#32 = x at bit
  have hzero : x = 0#32 ↔ irq s = false := by
    rw [irq_eq_false_iff]
    constructor
    · rintro rfl
      exact ⟨(bit 0).symm, (bit 1).symm, (bit 2).symm⟩
    · rintro ⟨h0, h1, h2⟩
      exact BitVec.eq_of_getLsbD_eq fun i _ => by rw [bit i, h0, h1, h2]; simp
  simp [hzero]

/-- Settles O17: the word of enabled pending bits, and what a CTRL and a STATUS write store. -/
theorem irqIsEnabledPending : Obligations.IrqIsEnabledPending := by
  refine ⟨irq_eq_enabledPending, fun _ _ _ _ => rfl, fun _ _ => rfl, fun d s => ⟨_, rfl, ?_, ?_, fun h => ?_⟩⟩
  · simp
  · simp
  · simp [clearsErr, h]

/-! ## DONE_P -/

/-- Settles O18: DONE_P rises only at the return to IDLE (O58), to which RUN never comes (O48). -/
theorem doneMarksTheReturnToIdle : Obligations.DoneMarksTheReturnToIdle := by
  intro s t hr h
  obtain ⟨-, -, -, -, -, hdone, -⟩ := flagsChangeOnlyByTheirWriters s t hr h
  refine ⟨fun hs ht => hdone.mpr (.inl ⟨hs, ht⟩), fun hs ht => ?_, fun hinv ho => ?_⟩
  · rcases hdone.mp ht with hidle | ⟨hset, -⟩
    · exact hidle
    · exact absurd (hs.symm.trans hset) Bool.false_ne_true
  · obtain ⟨-, -, -, hrunning, -⟩ := inv_iff_placeOk.mp hinv
    exact (runHolds_of_step hinv (hrunning.mpr ho) hr h).doneP

end Sys2Proof.Machine
end

section
/-! PROOFS. O30: from a state with the invariant every part of an edge answers a next state; the running command has an
action at every place the invariant allows. -/

namespace Sys2Proof.Machine

variable {u : State}

/-- A wait for data ready that times out has an action for each command that reads a frame (R88, R102, R104). -/
theorem timeoutStep_next (ho : readsFrame u.op = true) : ∃ v, timeoutStep u = .next v := by
  rcases readsFrame_iff.mp ho with ho | ho
  · exact ⟨_, timeoutStep_completes ho⟩
  · exact ⟨_, timeoutStep_run ho⟩

theorem nextAction_next_of_poll (hq : u.seq = .poll) (ho : readsFrame u.op = true) : ∃ v, nextAction u = .next v := by
  cases hd : doutLevel u with
  | false => exact ⟨_, nextAction_poll_ready hq hd⟩
  | true =>
    rw [nextAction_poll_failed hq hd]
    cases ht : pollsTimedOut u.timeout (pollsAfter u.polls) with
    | false => exact ⟨_, pollFailed_of_goesOn ht⟩
    | true =>
      rw [pollFailed_of_timedOut ht]
      exact timeoutStep_next (u := pollCounted u) ho

theorem nextAction_next_of_clocking (hq : u.seq = .clocking) (ho : u.op = .pulse ∨ readsFrame u.op = true) :
    ∃ v, nextAction u = .next v := by
  cases hp : u.phase with
  | high =>
    rcases ho with ho | ho
    · exact ⟨_, nextAction_pulse_high hq hp ho⟩
    · exact ⟨_, nextAction_frame_high hq hp ho⟩
  | low =>
    rcases ho with ho | ho
    · exact ⟨_, nextAction_pulse_low hq hp ho⟩
    · exact ⟨_, nextAction_frame_low hq hp ho⟩

/-- Every command that comes to PROCESS has a commit, those that need SCALE with a valid one (R92). -/
theorem processEnd_next (hn : u.op ≠ .nop) (hp : u.op ≠ .pulse) (hs : u.ScaleOk) : ∃ v, processEnd u = .next v := by
  unfold State.ScaleOk at hs
  cases ho : u.op with
  | nop => exact absurd ho hn
  | pulse => exact absurd ho hp
  | readFrame => exact ⟨_, processEnd_readFrame ho⟩
  | decode => exact ⟨_, processEnd_decode ho⟩
  | recordRate => exact ⟨_, processEnd_recordRate ho⟩
  | calibrate => exact ⟨_, processEnd_calibrate ho (hs (by rw [ho]; rfl))⟩
  | acquire => exact ⟨_, processEnd_acquire ho (hs (by rw [ho]; rfl))⟩
  | run => exact ⟨_, processEnd_run ho (hs (by rw [ho]; rfl))⟩

/-- At every place the invariant allows there is a next action (R37). -/
theorem nextAction_next (h : u.PlaceOk) (hs : u.ScaleOk) : ∃ v, nextAction u = .next v := by
  cases hq : u.seq with
  | idle => exact ⟨u, by rw [nextAction, hq]⟩
  | init =>
    cases hp : u.phase with
    | high => exact ⟨_, nextAction_init_high hq hp⟩
    | low => exact ⟨_, nextAction_init_low hq hp⟩
  | delay => exact ⟨_, nextAction_delay hq⟩
  | poll =>
    obtain ⟨-, -, ho, -⟩ := (placeOk_poll_iff hq).mp h
    exact nextAction_next_of_poll hq ho
  | backoff => exact ⟨_, nextAction_backoff hq⟩
  | clocking =>
    obtain ⟨-, -, ho, -⟩ := (placeOk_clocking_iff hq).mp h
    exact nextAction_next_of_clocking hq ho
  | process =>
    obtain ⟨-, -, hn, hp, -⟩ := (placeOk_process_iff hq).mp h
    rw [nextAction_process hq]
    exact processEnd_next hn hp hs

theorem sequencerPart_next (wasBusy : Bool) (h : u.Inv) : ∃ v, sequencerPart wasBusy u = .next v := by
  obtain ⟨-, -, hplace, -, hscale, -⟩ := inv_iff_placeOk.mp h
  cases wasBusy with
  | false => exact ⟨u, rfl⟩
  | true =>
    change ∃ v, advance u = .next v
    rcases Nat.lt_or_ge 1 u.cnt.toNat with hc | hc
    · exact ⟨_, advance_of_waiting hc⟩
    · rw [advance_of_waitEnds (waitEnds_iff.mpr hc)]
      exact nextAction_next hplace hscale

/-- Settles O30: the own offer and the host's part never stop, and they keep the invariant for the running command. -/
theorem invariantNeverStops : Obligations.InvariantNeverStops := by
  intro s hinv
  cases hr : (portIn s).rst with
  | true => exact ⟨_, step_of_reset hr⟩
  | false =>
    obtain ⟨u, hu⟩ := selfOffer_next s.fresh (beginEdge s)
    obtain ⟨v, hv⟩ := hostPart_next u
    have hmid : MidEdge v := midEdge_hostPart (midEdge_selfOffer (midEdge_beginEdge hinv) hu) hv
    obtain ⟨w, hw⟩ := sequencerPart_next (busy s) hmid.inv
    exact ⟨_, by rw [step_of_run hr, runEdge, hu, andThen_next, hv, andThen_next, hw, andThen_next]⟩

end Sys2Proof.Machine
end

section
/-! PROOFS. O11, O13, O16: what the host's write leaves in the flags before the running command goes on. That command
reads none of them but the edge's error, and sets them without looking, so it commutes with the write's effect
(`sequencerPart_withFlags`): the edge with the write is the edge without it, the flags apart. -/

namespace Sys2Proof.Machine

variable {s t u v : State}

/-! ## The error record as a value -/

/-- ERR_P and ERR_CODE, with the model's note of the edge's error (R109). -/
structure ErrReport where
  errP : Bit
  errCode : ErrCode
  edgeErr : Option ErrCode

namespace ErrReport

/-- The record after READY_TIMEOUT, the one error of a running command (R79, R109). -/
def timeOut (r : ErrReport) : ErrReport where
  errP := true
  errCode := recordedErr r.edgeErr .readyTimeout
  edgeErr := some (recordedErr r.edgeErr .readyTimeout)

/-- The record of the error `c`, whatever stood there (R109). -/
def always (c : ErrCode) (_ : ErrReport) : ErrReport := ⟨true, c, some c⟩

/-- The record of the edge's error where it has one, and else ERR_P `e` and ERR_CODE `c` (R112). -/
def unlessNoted (e : Bit) (c : ErrCode) (r : ErrReport) : ErrReport :=
  match r.edgeErr with
  | some noted => ⟨true, noted, some noted⟩
  | none => ⟨e, c, none⟩

/-- READY_TIMEOUT has the highest code, so it displaces no error of its edge (R108, R109). -/
theorem timeOut_always (c : ErrCode) (r : ErrReport) : always c r.timeOut = (always c r).timeOut := by
  have hlower : recordedErr (some c) .readyTimeout = c := by cases c <;> rfl
  simp only [always, timeOut, hlower]

/-- READY_TIMEOUT is recorded with or without a clear at its edge (R112). -/
theorem timeOut_unlessNoted (e : Bit) (c : ErrCode) (r : ErrReport) :
    unlessNoted e c r.timeOut = (unlessNoted e c r).timeOut := by
  obtain ⟨_, _, _ | noted⟩ := r <;> rfl

end ErrReport

/-- The error record of a state. -/
def errReport (s : State) : ErrReport := ⟨s.errP, s.errCode, s.edgeErr⟩

/-- The state with DONE_P and FRAME_P also 1 where `d` and `f` are, and the error record changed by `E`. -/
def withFlags (d f : Bit) (E : ErrReport → ErrReport) (s : State) : State :=
  { s with
    doneP := s.doneP || d
    frameP := s.frameP || f
    errP := (E (errReport s)).errP
    errCode := (E (errReport s)).errCode
    edgeErr := (E (errReport s)).edgeErr }

/-! ## The running command -/

/-- A commit that needs SCALE is made with a valid one only (R92). -/
theorem scaleValid_of_commit (h : nextAction u = .next v) (hq : u.seq = .process) (hn : needsScale u.op = true) :
    scaleValid u = true := by
  rw [nextAction_process hq] at h
  cases ho : u.op with
  | nop | pulse | readFrame | decode | recordRate => rw [ho] at hn; cases hn
  | calibrate | acquire | run =>
    rw [processEnd, ho] at h
    by_contra hv
    cases (if_neg hv).symm.trans h

/-- The converse of `action_of_nextAction`: each action is made, one that needs SCALE where it is valid (R37, R92). -/
theorem nextAction_of_action (ha : Action u v)
    (hs : u.seq = .process → needsScale u.op = true → scaleValid u = true) : nextAction u = .next v := by
  cases ha with
  | none hq => rw [nextAction, hq]
  | idlePulseFall hq hp => exact nextAction_init_high hq hp
  | idlePulseEnd hq hp => exact nextAction_init_low hq hp
  | delayEnd hq => exact nextAction_delay hq
  | pollReady hq hd => exact nextAction_poll_ready hq hd
  | pollTimeout hq hd ht ho =>
    rw [nextAction_poll_failed hq hd, pollFailed_of_timedOut ht]
    exact timeoutStep_completes (u := pollCounted u) ho
  | pollTimeoutRun hq hd ht ho =>
    rw [nextAction_poll_failed hq hd, pollFailed_of_timedOut ht]
    exact timeoutStep_run (u := pollCounted u) ho
  | pollBackoff hq hd ht => rw [nextAction_poll_failed hq hd, pollFailed_of_goesOn ht]
  | backoffEnd hq => exact nextAction_backoff hq
  | samplePulse hq hp ho => exact nextAction_pulse_high hq hp ho
  | commitPulse hq hp ho => exact nextAction_pulse_low hq hp ho
  | sampleFrame hq hp ho => exact nextAction_frame_high hq hp ho
  | nextPulse hq hp ho hb =>
    exact (nextAction_frame_low hq hp ho).trans (congrArg Host.Outcome.next (if_pos hb))
  | endFrame hq hp ho hb =>
    exact (nextAction_frame_low hq hp ho).trans (congrArg Host.Outcome.next (if_neg (Nat.not_lt.mpr hb)))
  | commitReadFrame hq ho => exact (nextAction_process hq).trans (processEnd_readFrame ho)
  | commitDecode hq ho => exact (nextAction_process hq).trans (processEnd_decode ho)
  | commitCalibrate hq ho => exact (nextAction_process hq).trans (processEnd_calibrate ho (hs hq (by rw [ho]; rfl)))
  | commitRecordRate hq ho => exact (nextAction_process hq).trans (processEnd_recordRate ho)
  | commitAcquire hq ho => exact (nextAction_process hq).trans (processEnd_acquire ho (hs hq (by rw [ho]; rfl)))
  | commitRun hq ho => exact (nextAction_process hq).trans (processEnd_run ho (hs hq (by rw [ho]; rfl)))

section Flags

variable {d f : Bit} {E : ErrReport → ErrReport}

/-- A command completes with DONE_P 1, whatever it held (R111). -/
theorem complete_withFlags (s : State) : withFlags d f E (complete s) = complete (withFlags d f E s) := rfl

theorem storeValue_withFlags (r : U24) (s : State) :
    withFlags d f E (storeValue r s) = storeValue r (withFlags d f E s) := rfl

/-- A frame's record is committed with FRAME_P 1, whatever it held (R100). -/
theorem frameCommit_withFlags (r : U24) (s : State) :
    withFlags d f E (frameCommit r s) = frameCommit r (withFlags d f E s) := rfl

theorem beginDelay_withFlags (s : State) : withFlags d f E (beginDelay s) = beginDelay (withFlags d f E s) := by
  by_cases hi : s.interframe = 0#32
  · rw [beginDelay_of_zero hi, beginDelay_of_zero (u := withFlags d f E s) hi]; rfl
  · rw [beginDelay_of_ne_zero hi, beginDelay_of_ne_zero (u := withFlags d f E s) hi]; rfl

variable (hE : ∀ r, E r.timeOut = (E r).timeOut)
include hE

theorem readyTimeout_withFlags (s : State) :
    withFlags d f E (raiseErr .readyTimeout s) = raiseErr .readyTimeout (withFlags d f E s) := by
  have h : E (errReport (raiseErr .readyTimeout s)) = (E (errReport s)).timeOut := hE (errReport s)
  simp only [withFlags, h]
  rfl

/-- An action takes no notice of the flags, and sets them over whatever they hold (R111, R100, R109). -/
theorem action_withFlags (ha : Action u v) : Action (withFlags d f E u) (withFlags d f E v) := by
  cases ha with
  | none hq => exact .none hq
  | idlePulseFall hq hp => exact .idlePulseFall hq hp
  | idlePulseEnd hq hp => exact .idlePulseEnd hq hp
  | delayEnd hq => exact .delayEnd hq
  | pollReady hq hd => exact .pollReady hq hd
  | pollTimeout hq hd ht ho =>
    rw [complete_withFlags, readyTimeout_withFlags hE]
    exact .pollTimeout hq hd ht ho
  | pollTimeoutRun hq hd ht ho =>
    rw [beginDelay_withFlags, readyTimeout_withFlags hE]
    exact .pollTimeoutRun hq hd ht ho
  | pollBackoff hq hd ht => exact .pollBackoff hq hd ht
  | backoffEnd hq => exact .backoffEnd hq
  | samplePulse hq hp ho => exact .samplePulse hq hp ho
  | commitPulse hq hp ho => exact .commitPulse hq hp ho
  | sampleFrame hq hp ho => exact .sampleFrame hq hp ho
  | nextPulse hq hp ho hb => exact .nextPulse hq hp ho hb
  | endFrame hq hp ho hb => exact .endFrame hq hp ho hb
  | commitReadFrame hq ho => exact .commitReadFrame hq ho
  | commitDecode hq ho => exact .commitDecode hq ho
  | commitCalibrate hq ho =>
    rw [complete_withFlags, storeValue_withFlags]
    exact .commitCalibrate hq ho
  | commitRecordRate hq ho => exact .commitRecordRate hq ho
  | commitAcquire hq ho =>
    rw [complete_withFlags, frameCommit_withFlags]
    exact .commitAcquire hq ho
  | commitRun hq ho =>
    rw [beginDelay_withFlags, frameCommit_withFlags]
    exact .commitRun hq ho

/-- The sequencer's part of an edge commutes with what the host's part did to the flags (R61). -/
theorem sequencerPart_withFlags {wasBusy : Bool} (h : sequencerPart wasBusy u = .next v) :
    sequencerPart wasBusy (withFlags d f E u) = .next (withFlags d f E v) := by
  cases wasBusy with
  | false => cases h; rfl
  | true =>
    change advance u = .next v at h
    change advance (withFlags d f E u) = .next (withFlags d f E v)
    rcases Nat.lt_or_ge 1 u.cnt.toNat with hc | hc
    · cases (advance_of_waiting hc).symm.trans h
      exact advance_of_waiting (s := withFlags d f E u) hc
    · have hw := waitEnds_iff.mpr hc
      rw [advance_of_waitEnds hw] at h
      have hs := scaleValid_of_commit h
      rw [advance_of_waitEnds (s := withFlags d f E u) hw]
      exact nextAction_of_action (action_withFlags hE (action_of_nextAction h)) hs

end Flags

/-! ## A rejected write -/

theorem withFlags_always (c : ErrCode) (s : State) :
    withFlags false false (.always c) s = { s with errP := true, errCode := c, edgeErr := some c } := by
  simp only [withFlags, ErrReport.always, Bool.or_false]

/-- The error of a rejected write is recorded over the edge without the write (R116). -/
theorem step_of_rejectedWrite {c : ErrCode} (hr : (portIn s).rst = false) (hself : s.noSelfOffer)
    (hhost : hostPart (beginEdge s) = .next (raiseErr c (beginEdge s))) (h : step s.withoutWrite = .next t) :
    step s = .next { t with errP := true, errCode := c, edgeErr := some c } := by
  have hown := selfOffer_of_noSelfOffer hself (beginEdge s) rfl
  rw [step_withoutWrite hr, hown, andThen_next] at h
  obtain ⟨w, hw, ht⟩ := andThen_eq_next.mp h
  cases ht
  have hseq := sequencerPart_withFlags (d := false) (f := false) (ErrReport.timeOut_always c) hw
  rw [withFlags_always, withFlags_always, ← raiseErr_of_noEdgeErr c (s := beginEdge s) rfl] at hseq
  rw [step_of_run hr, runEdge, hown, andThen_next, hhost, andThen_next, hseq, andThen_next]
  rfl

/-- Settles O11: the host's part is the error alone, by the reason for it. -/
theorem rejectedWriteOnlyRecordsError : Obligations.RejectedWriteOnlyRecordsError := by
  intro s t c hr hw hself hreason
  refine step_of_rejectedWrite hr hself ?_
  rw [hostPart_beginEdge_of_write hw]
  rcases hreason with
    ⟨hcmd, ⟨⟨r, hd⟩, rfl⟩ | ⟨⟨i, hd, hi⟩, hb, rfl⟩ | ⟨⟨i, hd, hi⟩, hb, hv, rfl⟩⟩ | ⟨hacc, hb, rfl⟩
  · rw [hcmd]
    exact offerWord_of_illegal _ hd
  · rw [hcmd, regWrite, offerWord_of_command _ hd, exec_of_busy (s := beginEdge s) i hb, if_neg hi]
  · rw [hcmd, regWrite, offerWord_of_command _ hd]
    exact exec_of_invalidScale (s := beginEdge s) hb (needsScale_iff.mpr hi) hv
  · exact regWrite_config_of_busy (s := beginEdge s) _ hb hacc

/-! ## RUN's timeout and a host error -/

/-- A busy block makes no offer of its own (R126). -/
theorem noSelfOffer_of_busy (hinv : s.Inv) (hb : busy s = true) : s.noSelfOffer := by
  obtain ⟨-, -, -, -, -, -, hfresh, -⟩ := inv_iff_placeOk.mp hinv
  exact .inl (Bool.eq_false_iff.mpr fun hf => busy_iff.mp hb (hfresh hf))

/-- Settles O13: the edge without the write is the timeout of O34, and the write adds the error BUSY (O11). -/
theorem timeoutMeetsBusyError : Obligations.TimeoutMeetsBusyError := by
  intro s w i hinv h ho hq hd ht hoffer hdec hi
  have ⟨hr, hb, _⟩ := h
  obtain ⟨-, hw, hcmd, hdata⟩ := hoffer
  obtain ⟨t, hs, -, -, -, hdone, hplace⟩ := step_pollTimeout_run (s := s.withoutWrite) hinv h hq hd rfl ht ho
  have hstep := rejectedWriteOnlyRecordsError s t .busy hr hw (noSelfOffer_of_busy hinv hb)
    (.inl ⟨hcmd, .inr (.inl ⟨⟨i, by rw [hdata, hdec], hi⟩, hb, rfl⟩)⟩) hs
  obtain ⟨q, p, hnext, hheld⟩ : ∃ q p, (q = .delay ∨ q = .poll)
      ∧ held t = { held s.withoutWrite with seq := q, polls := p } := by
    split at hplace
    · exact ⟨_, _, .inr rfl, hplace.2⟩
    · exact ⟨_, _, .inl rfl, hplace.2⟩
  obtain ⟨hrecord, -⟩ := same_of_held_place hheld
  have hseq : t.seq = q := (congrArg State.seq hheld :)
  exact ⟨_, hstep, rfl, rfl, (congrArg State.op hheld :).trans ho, by rwa [← hseq] at hnext, hrecord, hdone⟩

/-! ## A clear and a set at one edge -/

/-- After the own offer the error record holds the edge's error, if there is one (R109). -/
theorem errReport_of_selfOffer {first : Bool} (h : selfOffer first (beginEdge s) = .next u) :
    u.edgeErr = none ∨ ∃ c, errReport u = ⟨true, c, some c⟩ := by
  rcases selfOffer_cases h with rfl | ⟨-, -, he⟩
  · exact .inl rfl
  cases he
  rcases offer_cases .run startRun (beginEdge s) with ⟨-, ho⟩ | ⟨-, -, -, ho⟩ | ⟨-, -, ho⟩ <;> rw [ho]
  · exact .inr ⟨_, rfl⟩
  · exact .inr ⟨_, rfl⟩
  · exact .inl rfl

/-- An offer takes no notice of the pending bits, where the command's first action takes none (R69). -/
theorem offer_withFlags (i : Instr) {start : State → State} (d f : Bit)
    (h : ∀ x, start (withFlags d f id x) = withFlags d f id (start x)) (u : State) :
    offer i start (withFlags d f id u) = withFlags d f id (offer i start u) := by
  rcases offer_cases i start u with ⟨hb, ho⟩ | ⟨hb, hn, hv, ho⟩ | ⟨hb, hv, ho⟩ <;> rw [ho]
  · exact offer_busy i start hb
  · exact offer_cfgScale i start hb hn hv
  · exact (offer_accepted (s := withFlags d f id u) i start hb hv).trans (h { u with op := i })

/-- The own offer takes no notice of the pending bits (R126, R69). -/
theorem selfOffer_withFlags {first : Bool} (d f : Bit) (h : selfOffer first u = .next v) :
    selfOffer first (withFlags d f id u) = .next (withFlags d f id v) := by
  unfold selfOffer at h
  split at h
  · next hown =>
    cases h
    have hoffer := offer_withFlags .run (start := startRun) d f (fun _ => rfl) u
    exact (if_pos hown).trans (congrArg Host.Outcome.next hoffer)
  · next hown =>
    cases h
    exact if_neg hown

/-- A STATUS write is judged by the edge's error so far (R112). -/
theorem clearPending_withFlags (x : Word) (d f : Bit) (hd : u.doneP = false) (hf : u.frameP = false)
    (hnote : u.edgeErr = none ∨ ∃ c, errReport u = ⟨true, c, some c⟩) :
    ∃ d' f' e c, clearPending x (withFlags d f id u) = withFlags d' f' (.unlessNoted e c) u := by
  refine ⟨d && !x.getLsbD 8, f && !x.getLsbD 9, (clearPending x u).errP, (clearPending x u).errCode, ?_⟩
  rcases hnote with hnone | ⟨c, hc⟩
  · simp [clearPending, withFlags, ErrReport.unlessNoted, errReport, clearsErr, hd, hf, hnone]
  · obtain ⟨herr, hcode, hedge⟩ : u.errP = true ∧ u.errCode = c ∧ u.edgeErr = some c := by
      simpa [errReport] using hc
    simp [clearPending, withFlags, ErrReport.unlessNoted, errReport, clearsErr, hd, hf, herr, hcode, hedge]

theorem hostPart_of_statusWrite (hw : u.hostWrites .status) :
    hostPart u = .next (clearPending ((portIn u).regWdata.setWidth 32) u) := by
  obtain ⟨hwr, hreg⟩ := hw
  rw [hostPart, if_pos hwr, hreg, regWrite]

/-- An edge with a STATUS write is the edge without it, begun with DONE_P and FRAME_P 0, but for bits that stayed from
before and the error record of earlier edges (R112, R18). -/
theorem step_of_statusWrite (hr : (portIn s).rst = false) (hw : s.hostWrites .status)
    (h : step { s.withoutWrite with doneP := false, frameP := false } = .next u) :
    ∃ d f e c n, step s = .next { withFlags d f (.unlessNoted e c) u with rdata := n } := by
  have hblank := step_withoutWrite (s := { s with doneP := false, frameP := false }) hr
  obtain ⟨x, hx, hrest⟩ := andThen_eq_next.mp (hblank.symm.trans h)
  obtain ⟨w, hseq, hu⟩ := andThen_eq_next.mp hrest
  cases hu
  have hown : selfOffer s.fresh (beginEdge s) = .next (withFlags s.doneP s.frameP id x) :=
    selfOffer_withFlags s.doneP s.frameP hx
  have hports : portIn (withFlags s.doneP s.frameP id x) = portIn s := portIn_selfOffer (s := beginEdge s) hown
  have hframe := offerFrame_of_selfOffer hx
  obtain ⟨d, f, e, c, hclear⟩ := clearPending_withFlags ((portIn s).regWdata.setWidth 32) s.doneP s.frameP hframe.d
    hframe.f (errReport_of_selfOffer hx)
  have hhost : hostPart (withFlags s.doneP s.frameP id x) = .next (withFlags d f (.unlessNoted e c) x) := by
    rw [hostPart_of_statusWrite (by rwa [State.hostWrites, hports]), hports, hclear]
  have hseq' := sequencerPart_withFlags (d := d) (f := f) (ErrReport.timeOut_unlessNoted e c) hseq
  refine ⟨d, f, e, c, regRdata s, ?_⟩
  rw [step_of_run hr, runEdge, hown, andThen_next, hhost, andThen_next]
  exact congrArg (fun o => andThen o fun y => .next (finishEdge (regRdata s) y)) hseq'

/-- Settles O16: what the edge without the write sets is set over the host's clear. -/
theorem setBeatsClear : Obligations.SetBeatsClear := by
  intro s t u hr hwr hreg ht hu
  obtain ⟨d, f, e, c, n, hs⟩ := step_of_statusWrite hr ⟨hwr, hreg⟩ hu
  cases ht.symm.trans hs
  refine ⟨fun hd => ?_, fun hf => ?_, fun he => ?_⟩
  · simp [withFlags, hd]
  · simp [withFlags, hf]
  · obtain ⟨noted, hnoted⟩ := Option.ne_none_iff_exists'.mp he
    simp [withFlags, ErrReport.unlessNoted, errReport, hnoted]

end Sys2Proof.Machine
end

section
/-! PROOFS. O27, O31, O32: the first edge after reset, the invariant along a run from reset, and the edges inside a
Wait. -/

namespace Sys2Proof.Machine

variable {s t u : State} {n : Nat}

/-! ## Waits -/

/-- Settles O32: what a Wait holds (`held`) has each of these fields but CNT. -/
theorem waitCountsDown : Obligations.WaitCountsDown := by
  intro s k hb hk hn
  obtain ⟨t, ht, hheld, hcnt⟩ := runEvents_held hb hk hn
  exact ⟨t, ht, by omega, (congrArg State.seq hheld :), (congrArg State.op hheld :), (congrArg State.phase hheld :),
    (congrArg State.sckQ hheld :), (congrArg State.polls hheld :), (congrArg State.dTmp hheld :),
    (congrArg State.running hheld :), sameConfig_of_held hheld (sameConfig_refl s),
    sameRecord_of_held hheld ⟨rfl, rfl, rfl, rfl, rfl⟩, sameSamples_of_held hheld ⟨rfl, rfl, rfl⟩⟩

/-! ## Runs from reset -/

/-- A run of the machine keeps the invariant, resets in it or not (R37). -/
theorem inv_of_run (hinv : s.Inv) (h : Host.Core.run core n s = .next t) : t.Inv := by
  induction n generalizing s with
  | zero => cases h; exact hinv
  | succ n ih =>
    obtain ⟨u, hu, hrun⟩ := andThen_eq_next.mp ((run_core_succ n s).symm.trans h)
    exact ih (stepKeepsTheInvariant s u hinv hu) hrun

/-- Where SCK follows PHASE, and PHASE is HIGH in CLOCKING and INIT alone, SCK is 1 there and nowhere else (R130). -/
theorem sckQ_iff_high (h : s.SckOk) : s.sckQ = true ↔ (s.seq = .clocking ∨ s.seq = .init) ∧ s.phase = .high := by
  obtain ⟨hsck, hplace⟩ := h
  exact ⟨fun hs => ⟨hplace (hsck.mp hs), hsck.mp hs⟩, fun hs => hsck.mpr hs.2⟩

/-- Settles O31: a run from reset keeps the invariant, which ties SCK to STATE and PHASE. -/
theorem sckIsHighOnlyInAPulse : Obligations.SckIsHighOnlyInAPulse := by
  intro b now ins n s hleg hrun
  obtain ⟨-, -, hsck, -⟩ := inv_of_run (inv_afterReset hleg now ins 1) hrun
  have hhigh := sckQ_iff_high hsck
  refine ⟨hhigh, fun hq => Bool.eq_false_iff.mpr fun hs => ?_⟩
  obtain ⟨hc | hi, -⟩ := hhigh.mp hs
  · simp [hc] at hq
  · simp [hi] at hq

/-! ## The first edge after reset -/

/-- A write that a busy block turns away: a command other than NOP, or a configuration write (R69, R50). -/
theorem hostPart_of_busy_rejects (hb : busy u = true) (hw : (portIn u).regWr = true)
    (hreg : (Reg.ofIdx (portIn u).regIdx = .cmd
        ∧ ∃ i, decodeWord ((portIn u).regWdata.setWidth 32) = .command i ∧ i ≠ .nop)
      ∨ (Reg.ofIdx (portIn u).regIdx).access = .config) :
    hostPart u = .next (raiseErr .busy u) := by
  rw [hostPart, if_pos hw]
  rcases hreg with ⟨hcmd, i, hd, hi⟩ | hacc
  · rw [hcmd, regWrite, offerWord_of_command u hd, exec_of_busy i hb, if_neg hi]
  · exact regWrite_config_of_busy _ hb hacc

/-- The first edge after reset with AUTO_RUN 1: the host's write acts on what the offer of RUN leaves (R126). -/
theorem step_of_autoRun (hf : s.fresh = true) (hq : s.seq = .idle) (hr : (portIn s).rst = false)
    (ha : s.build.autoRun = true) (he : exec .run (beginEdge s) = .next u) :
    step s = andThen (hostPart u) fun v => .next (finishEdge (regRdata s) v) := by
  have hown : selfOffer s.fresh (beginEdge s) = .next u := by
    rw [selfOffer, hf, show (beginEdge s).build.autoRun = true from ha]
    exact he
  rw [step_of_run hr, runEdge, hown, not_busy_iff.mpr hq]
  rfl

/-- What the own offer of RUN leaves where it is accepted, before the host's write is judged (R126, R103). -/
def runStarted (s : State) : State := startRun { beginEdge s with op := .run }

/-- Settles O27: with AUTO_RUN 0 the edge is that of an undisturbed idle block (O59); with AUTO_RUN 1 the offer of RUN
is O9's, and the host's write meets the busy block of its acceptance, or the idle one of its rejection. -/
theorem autoRunOffersRunAfterReset : Obligations.AutoRunOffersRunAfterReset := by
  intro s hf hq hr
  have hidle : busy s = false := not_busy_iff.mpr hq
  obtain ⟨haccepted, hrejected⟩ := runStartsWithTheIdlePulse (beginEdge s) hidle
  refine ⟨fun ha hw => ⟨_, idleBlockStaysIdle s hr hw hidle (.inr ha), hq, rfl, rfl⟩, fun ha hv => ?_, fun ha hv => ?_⟩
  · have hstep := step_of_autoRun (u := runStarted s) hf hq hr ha (haccepted hv)
    obtain ⟨d, f, e, c, k, g, hhost, -⟩ := hostPart_of_busy (s := runStarted s) rfl
    rw [hhost] at hstep
    refine ⟨_, hstep, rfl, rfl, rfl, rfl, rfl, rfl, sameConfig_refl s, fun hw hreg => ?_⟩
    have hbusy := hhost.symm.trans (hostPart_of_busy_rejects (u := runStarted s) rfl hw hreg)
    injection hbusy with hraised
    exact ⟨(congrArg State.errP hraised :), (congrArg State.errCode hraised :)⟩
  · have hstep := step_of_autoRun hf hq hr ha (hrejected hv)
    refine ⟨fun hw => ?_, hstep⟩
    have hhost : hostPart (raiseErr .cfgScale (beginEdge s)) = .next (raiseErr .cfgScale (beginEdge s)) :=
      if_neg (Bool.eq_false_iff.mp hw)
    rw [hhost] at hstep
    exact ⟨_, hstep, hq, rfl, rfl⟩

end Sys2Proof.Machine
end
